-- ==== Sys2Proof/Word.lean ====
section
/-! DEFINITION. The word types: a byte, and the 32-bit and 64-bit registers (spec/00_scope.md R7, R9). -/

namespace Sys2Proof

/-- One byte of memory or of an encoding. -/
abbrev Byte := BitVec 8

/-- A 32-bit register: EAX, ECX, EDX (10_state.md R10, R13, R16). -/
abbrev Word32 := BitVec 32

/-- A 64-bit register: RCX, and the register EAX is the low half of (10_state.md R14, R15). -/
abbrev Word64 := BitVec 64

end Sys2Proof
end

