-- ==== Sys2Proof/Config.lean ====
section
/-! DEFINITION. What an implementation or the enclosing model fixes (00_scope.md R6), the kinds of value these
parameters range over, and the free values: constants with no body, so that no proof can see what they are. -/

namespace Sys2Proof

/-- The five operating modes (10_state.md R21). -/
inductive Mode where
  | real | protectedMode | virtual8086 | compatibility | long64
  deriving DecidableEq, Repr, Inhabited

/-- The events that can be pending (10_state.md R28). -/
inductive Event where
  | nmi | smi | debugException | machineCheck | binit | init | reset
  /-- An external interrupt `i`. -/
  | extInt (i : Nat)
  deriving DecidableEq, Repr, Inhabited

/-- What is handed to `Deliver` (00_scope.md R9, 60_exceptions.md R130 to R132, R148). -/
inductive Cause where
  /-- #UD, which carries no error code (R130). -/
  | ud
  /-- #GP, with its error code or, in real-address mode, without one (R131, R132). -/
  | gp (errorCode : Option Nat)
  /-- An event delivered at an instruction boundary (R148 (b)). -/
  | event (e : Event)
  deriving DecidableEq, Repr, Inhabited

/-- One call of `Deliver(cause, ret)` from which the handler has not returned (60_exceptions.md R148, R149). -/
structure Frame where
  cause : Cause
  ret : Word64
  deriving DecidableEq, Repr, Inhabited

/-- The general registers this spec names (10_state.md R10, R13, R14, R16). -/
structure Gprs where
  rax : Word64
  rcx : Word64
  edx : Word32
  deriving DecidableEq, Repr, Inhabited

/-- Privilege level, interrupt flag and mode: what `Deliver` may change besides `ip` and memory
(60_exceptions.md R148). -/
structure Control where
  cpl : Fin 4
  intFlag : Bool
  mode : Mode
  deriving DecidableEq, Repr, Inhabited

/-- The outcome of a `Deliver`: exactly the components that R148 says it may change. -/
structure Entry where
  ip : Word64
  control : Control
  writes : List Host.Cell
  deriving DecidableEq, Repr, Inhabited

/-- What a handler's return leaves, apart from `ip` (60_exceptions.md R149). -/
structure Resume where
  gprs : Gprs
  control : Control
  writes : List Host.Cell
  deriving DecidableEq, Repr, Inhabited

/-- What RESET# or INIT# leaves in the components the spec gives no value for (10_state.md R32,
70_reset_and_hazards.md R170, R171). -/
structure StartValues where
  gprs : Gprs
  ip : Word64
  control : Control
  miscEnableMonitor : Bool
  pending : List Event
  writes : List Host.Cell
  deriving DecidableEq, Repr, Inhabited

/-- The pointer width of each mode, in bits, by which the enclosing model supplies `NextIP` (00_scope.md R6,
10_state.md R18; 92_eei_decisions.md D7). No width exceeds the 64 bits `ip` is held in (log 7). -/
structure PointerWidths where
  real : Fin 65
  protectedMode : Fin 65
  virtual8086 : Fin 65
  compatibility : Fin 65
  long64 : Fin 65
  deriving DecidableEq, Repr, Inhabited

/-- The width of a mode. -/
def PointerWidths.bits (w : PointerWidths) : Mode → Nat
  | .real => w.real
  | .protectedMode => w.protectedMode
  | .virtual8086 => w.virtual8086
  | .compatibility => w.compatibility
  | .long64 => w.long64

/-- The implementation's parameters (00_scope.md R6). They stand in State, where no step writes them, so that a
statement about every state is a statement about every implementation. -/
structure Params where
  /-- Whether the hardware has MONITOR and MWAIT, before IA32_MISC_ENABLE has its say (10_state.md R25). -/
  hardwareHasMonitor : Bool
  /-- `CPUID_05_ECX_EXT` (10_state.md R23). -/
  cpuid05Ext : Bool
  /-- `CPUID_05_ECX_INTBRK` (10_state.md R24). -/
  cpuid05IntBrk : Bool
  /-- `HAS_64BIT_MODE` (00_scope.md R6). -/
  has64BitMode : Bool
  /-- `SUPPORTED_HINTS` less the value 0, which every implementation supports (00_scope.md R6, 40_mwait.md R101). -/
  supportedHints : List Word32
  /-- `NONPROC_STORE_IS_DUTY_AT_C1` (00_scope.md R6, 92_eei_decisions.md D8). -/
  nonprocStoreIsDutyAtC1 : Bool
  /-- `NextIP`, given by the pointer width of each mode (00_scope.md R6, 10_state.md R18). -/
  pointerWidths : PointerWidths
  /-- Whether the logical processor runs as a guest (60_exceptions.md R151). -/
  guest : Bool
  deriving DecidableEq, Repr, Inhabited

/-- Whether the processor has the mode: compatibility and 64-bit mode exist only where `HAS_64BIT_MODE`
(00_scope.md R6). -/
def Params.hasMode (p : Params) : Mode → Bool
  | .compatibility | .long64 => p.has64BitMode
  | .real | .protectedMode | .virtual8086 => true

namespace Config

/-- DESIGN CHOICE, safe (log 15): whether the `n`-th draw takes the hint and waits (40_mwait.md R91, `choose`). -/
opaque takesHint : Nat → Bool

/-- DESIGN CHOICE, safe (log 12): whether the `n`-th draw lets MONITOR arm (41_monitor_companion.md R120). -/
opaque monitorArms : Nat → Bool

/-- DESIGN CHOICE, safe (log 9): the addresses of `MON_RANGE(addr)` besides `addr` itself (20_memory.md R44). -/
opaque monRangeRest : Nat → List Nat

/-- DESIGN CHOICE, safe (log 10): whether MONITOR takes all of RAX as the address in 64-bit mode, which
41_monitor_companion.md R121 leaves open. -/
opaque monitorAddressIsRax : Bool

/-- DESIGN CHOICE, safe (log 30): the state entered, target and sub-state, at the `n`-th draw for a hint
(10_state.md R29). -/
opaque enteredState : Nat → Word32 → Byte

/-- DESIGN CHOICE, safe (log 17): what `Deliver(cause, ret)` does at the `n`-th draw (60_exceptions.md R148). -/
opaque deliverEntry : Nat → Cause → Word64 → Entry

/-- DESIGN CHOICE, safe (log 18): what the return from a frame leaves besides `ip`, at the `n`-th draw
(60_exceptions.md R149). -/
opaque returnValues : Nat → Frame → Resume

/-- DESIGN CHOICE, safe (log 19): what INIT# leaves at the `n`-th draw (70_reset_and_hazards.md R171). -/
opaque initValues : Nat → StartValues

/-- DESIGN CHOICE, safe (log 19): what RESET# leaves at the `n`-th draw (70_reset_and_hazards.md R170). -/
opaque resetValues : Nat → StartValues

end Config

end Sys2Proof
end

