-- ==== Sys2Proof/Syntax.lean ====
section
/-! DEFINITION. The instructions: one constructor per row of spec/opcode_table.json. Neither has an operand
field (30_encoding.md R61, R62): the operands are fixed registers. -/

namespace Sys2Proof

/-- The instruction set of this spec. -/
inductive Instr where
  /-- MWAIT, 0F 01 C9: 40_mwait.md R80. -/
  | mwait
  /-- MONITOR, 0F 01 C8: 41_monitor_companion.md R120, R122. -/
  | monitor
  deriving DecidableEq, Repr

end Sys2Proof
end

