-- ==== Sys2Proof/WellFormed.lean ====
section
/-! DEFINITION. Which instructions are well formed. An instruction of this spec carries no operand field
(30_encoding.md R61), so there is nothing to check and both are well formed. -/

namespace Sys2Proof

/-- Every instruction is well formed: format ZO has no field that could hold a bad value (30_encoding.md R61). -/
def Instr.wellFormed : Instr → Bool
  | .mwait => true
  | .monitor => true

end Sys2Proof
end

