-- ==== Sys2Proof/Decode.lean ====
section
/-! DEFINITION. The decoder, total on any bytes, and after it the encoder and the table's words
(30_encoding.md R60 to R65, spec/opcode_table.json). -/

namespace Sys2Proof

/-- Why bytes are no instruction of this spec. -/
inductive DecodeError where
  /-- The bytes run out before a decision (95_test_vectors.md A5). -/
  | incomplete
  /-- One of the two encodings behind at least one of R65's prefix bytes. -/
  | prefixed
  /-- Any other bytes (R64: "not MWAIT", the enclosing model decides). -/
  | outsideSpec
  deriving DecidableEq, Repr

/-- The three fixed bytes in order of increasing address, and what follows them (R60, R61; R122 for the second). -/
def matchBytes : List Byte → Option (Instr × List Byte)
  | b0 :: b1 :: b2 :: rest =>
    if b0 = 0x0F ∧ b1 = 0x01 then
      if b2 = 0xC9 then some (.mwait, rest)
      else if b2 = 0xC8 then some (.monitor, rest)
      else none
    else none
  | _ => none

/-- The prefix bytes of R65. PRESUMED (log 26): the six segment-override bytes, which R65 names without values.
A byte 40H to 4FH is a REX prefix in 64-bit mode only. -/
def isPrefixByte (m : Mode) (b : Byte) : Bool :=
  b = 0x66 || b = 0x67 || b = 0xF2 || b = 0xF3 || b = 0xF0
    || b = 0x26 || b = 0x2E || b = 0x36 || b = 0x3E || b = 0x64 || b = 0x65
    || (m = .long64 && b.toNat / 16 = 4)

/-- Whether the bytes could still grow into one of the two encodings. -/
def isIncomplete (bs : List Byte) : Bool :=
  bs = [] || bs = [0x0F] || bs = [0x0F, 0x01]

/-- The name of the refusal for bytes that `matchBytes` does not read (R64, R65). -/
def classify (m : Mode) (bs : List Byte) : DecodeError :=
  let unprefixed := bs.dropWhile (isPrefixByte m)
  if (matchBytes unprefixed).isSome then .prefixed
  else if isIncomplete unprefixed then .incomplete
  else .outsideSpec

/-- Decoding in mode `m`: the instruction and the bytes after it. The mode changes no result, only the name of a
refusal (R64). -/
def decode (m : Mode) (bs : List Byte) : Except DecodeError (Instr × List Byte) :=
  match matchBytes bs with
  | some r => .ok r
  | none => .error (classify m bs)

/-- The bytes of an instruction in order of increasing address (R60, R122). -/
def encode : Instr → List Byte
  | .mwait => [0x0F, 0x01, 0xC9]
  | .monitor => [0x0F, 0x01, 0xC8]

/-- The longest instruction, in bytes. -/
def longestInstr : Nat := 3

/-- The bytes of a word of spec/opcode_table.json, in order of increasing address. The table's numbers have the byte
at the lowest address most significant (its `byte_order_note`; log 27); every byte above the row's bits is 0. -/
def tableBytes (nbits w : Nat) : List Byte :=
  let n := nbits / 8
  (List.range n).map (fun k => BitVec.ofNat 8 (w / 2 ^ (8 * (n - 1 - k)))) ++ List.replicate (longestInstr - n) 0

/-- What the decoder reads from a word of the opcode table. -/
def decodeTableWord (nbits w : Nat) : Option Instr :=
  match decode .protectedMode (tableBytes nbits w) with
  | .ok (i, _) => some i
  | .error _ => none

end Sys2Proof
end

