-- ==== Sys2Proof/Machine/State.lean ====
section
/-! DEFINITION. The state of the machine (10_state.md), the ways a step can stop, and the state after reset. -/

namespace Sys2Proof.Machine

/-- Memory: bytes at natural addresses, listed in strictly rising order. An unlisted address holds no value (log 5). -/
abbrev Memory := List Host.Cell

/-- The canonical form of memory: strictly rising addresses. -/
abbrev Memory.wf (m : Memory) : Prop := m.Pairwise (fun x y => x.1 < y.1)

/-- The monitor hardware (10_state.md R26). The range is its list of addresses. -/
inductive Monitor where
  | idle
  | armed (range : List Nat)
  deriving DecidableEq, Repr

/-- The run state (10_state.md R27): `waiting hint ext next`. -/
inductive Run where
  | executing
  | waiting (hint : Word32) (ext : Bool) (next : Word64)
  deriving DecidableEq, Repr

/-- Who stores (20_memory.md R46): another processor agent, a non-processor agent, or this processor itself. -/
inductive Agent where
  | otherProcessor | nonProcessor | self
  deriving DecidableEq, Repr

/-- One turn of the schedule: which agent acts next and what it does (log 16). -/
inductive Turn where
  /-- The logical processor: it executes one instruction, or leaves the wait if it must. -/
  | core
  /-- An event is signalled (10_state.md R28). -/
  | arrive (e : Event)
  /-- `agent` stores `data` from address `addr` upwards. `noticed` says whether the monitor hardware reacts where the
  spec leaves that open (20_memory.md R46, 40_mwait.md R96). -/
  | store (agent : Agent) (addr : Nat) (data : List Byte) (noticed : Bool)
  /-- `agent` loads from address `addr` (20_memory.md R54). -/
  | load (agent : Agent) (addr : Nat)
  /-- An implementation-dependent event, or a masked interrupt with `ext = 0`, ends the wait (40_mwait.md R95). -/
  | implWake
  /-- The enclosing model delivers a pending event at this instruction boundary, if it can (40_mwait.md R98). -/
  | deliver (e : Event)
  /-- The handler of the latest `Deliver` returns (60_exceptions.md R149). -/
  | handlerReturn
  /-- The enclosing model now holds back exactly these external interrupts (60_exceptions.md R145). -/
  | holdBack (held : List Nat)
  /-- The operating system or BIOS writes `misc_enable_monitor` (10_state.md R25). -/
  | writeMiscEnable (enabled : Bool)
  /-- The processor executes an instruction outside this spec, which leaves these values (00_scope.md R5; log 34). -/
  | enclosing (gprs : Gprs) (ip : Word64) (control : Control)
  deriving DecidableEq, Repr

/-- The state of one logical processor, the memory it shares, and the model's own fields. -/
structure State where
  /-- RAX, whose low half is EAX (10_state.md R10, R15). -/
  rax : Word64
  /-- RCX, whose low half is ECX (10_state.md R13, R14). -/
  rcx : Word64
  /-- EDX (10_state.md R16). -/
  edx : Word32
  /-- The instruction pointer (10_state.md R18). -/
  ip : Word64
  /-- EFLAGS.IF (10_state.md R19). -/
  intFlag : Bool
  /-- The current privilege level (10_state.md R20). -/
  cpl : Fin 4
  /-- The operating mode (10_state.md R21). -/
  mode : Mode
  /-- `misc_enable_monitor`, the one bit modelled of IA32_MISC_ENABLE (10_state.md R25). -/
  miscEnableMonitor : Bool
  /-- The implementation's parameters, the CPUID bits among them (00_scope.md R6; 10_state.md R22 to R24). -/
  params : Params
  /-- The monitor hardware (10_state.md R26). -/
  mon : Monitor
  /-- Executing or waiting (10_state.md R27). -/
  run : Run
  /-- The events signalled and not delivered, without repeats (10_state.md R28). -/
  pending : List Event
  /-- Memory, shared by all agents (10_state.md R31). -/
  mem : Memory
  /-- The calls of `Deliver` whose handler has not returned, the latest first (60_exceptions.md R148, R149). -/
  frames : List Frame
  /-- The optimized state entered, during a wait; no rule reads it (10_state.md R29). -/
  entered : Option Byte
  /-- MODEL's own: the external interrupts the enclosing model holds back although IF = 1 (60_exceptions.md R145). -/
  heldBack : List Nat
  /-- MODEL's own: the turns to come. -/
  turns : List Turn
  /-- MODEL's own: the addresses stored to since the launch (20_memory.md R52). -/
  stored : List Nat
  /-- MODEL's own: how many free values have been drawn. -/
  draws : Nat
  deriving DecidableEq, Repr

/-- Why the machine stops with a fault. -/
inductive Fault where
  /-- Raised by the fetch in `step`, at an address whose byte nothing has written (log 5). Safe. -/
  | fetchUnwritten (addr : Nat)
  deriving DecidableEq, Repr

/-- Why a step has no meaning. -/
inductive Refusal where
  /-- Raised by an arm of `exec` that has no meaning yet; no arm raises it now. Safe. -/
  | notModelled (mnemonic : String)
  /-- Raised by `step`, and by MWAIT, where the processor runs as a guest (60_exceptions.md R151). Safe. -/
  | guest
  /-- Raised by MWAIT and MONITOR where `ip + 3` does not fit the mode's pointer width (10_state.md R18). Safe. -/
  | nextIpDoesNotFit
  /-- Raised by MONITOR where ECX or EDX is not 0 (41_monitor_companion.md R121). Safe. -/
  | monitorOperands
  /-- Raised by the fetch in `step` on a prefixed form (30_encoding.md R65). Safe. -/
  | prefixedForm
  /-- Raised by the fetch in `step` on bytes that are no instruction of this spec (30_encoding.md R64). Safe. -/
  | outsideSpec
  /-- Raised by the fetch in `step` of an instruction whose bytes were stored to (20_memory.md R52). Safe. -/
  | textModified
  /-- Raised by `step`: the processor would go on past BINIT# (60_exceptions.md R142). Safe. -/
  | binit
  deriving DecidableEq, Repr

/-- The parameters of the reset state. DESIGN CHOICE, unsafe (log 3); the pointer widths are the family's, PRESUMED,
unsafe (log 1). -/
def paramsAtReset : Params where
  hardwareHasMonitor := true
  cpuid05Ext := true
  cpuid05IntBrk := true
  has64BitMode := true
  supportedHints := []
  nonprocStoreIsDutyAtC1 := true
  pointerWidths := { real := 16, protectedMode := 32, virtual8086 := 16, compatibility := 32, long64 := 64 }
  guest := false

/-- The machine right after RESET#: `mon` and `run` as 10_state.md R32 states; every other component at a value
the assumption log names (logs 1 to 5, 16, 17, 21, 28, 30, 38). -/
def State.reset : State where
  rax := 0
  rcx := 0
  edx := 0
  ip := 0xFFF0
  intFlag := false
  cpl := 0
  mode := .real
  miscEnableMonitor := true
  params := paramsAtReset
  mon := .idle
  run := .executing
  pending := []
  mem := []
  frames := []
  entered := none
  heldBack := []
  turns := []
  stored := []
  draws := 0

end Sys2Proof.Machine
end

