-- ==== Sys2Proof/Machine/Operands.lean ====
section
/-! DEFINITION. The implicit operands of MWAIT and MONITOR and the fields inside them (10_state.md R10 to R15,
30_encoding.md R62). -/

namespace Sys2Proof.Machine

/-- EAX, the low 32 bits of RAX (10_state.md R10, R15; PRESUMED for the alias, log 8). -/
def State.eax (s : State) : Word32 := s.rax.extractLsb' 0 32

/-- ECX, the low 32 bits of RCX (10_state.md R13, R14; PRESUMED for the alias, log 8). -/
def State.ecx (s : State) : Word32 := s.rcx.extractLsb' 0 32

/-- EAX[3:0], the sub-state of a hint (10_state.md R11). -/
def hintSubstate (h : Word32) : BitVec 4 := h.extractLsb' 0 4

/-- EAX[7:4], the target field of a hint (10_state.md R11). -/
def hintTarget (h : Word32) : BitVec 4 := h.extractLsb' 4 4

/-- EAX[31:8], the reserved field of a hint (10_state.md R11). -/
def hintReserved (h : Word32) : BitVec 24 := h.extractLsb' 8 24

/-- The number of the C-state a target field names (10_state.md R12). -/
def cStateOf (t : BitVec 4) : Nat := (t.toNat + 1) % 16

/-- "Numerically higher than C1": t in 1..14 (10_state.md R12, 40_mwait.md R96). -/
def isDeepTarget (t : BitVec 4) : Bool := 1 ≤ t.toNat && t.toNat ≤ 14

/-- Whether the processor acts on the hint: 0 always, any other value only with the extensions, with the reserved
field 0 and in `SUPPORTED_HINTS` (40_mwait.md R96, R101; 92_eei_decisions.md D4). -/
def hintSupported (p : Params) (h : Word32) : Bool :=
  h = 0 || (p.cpuid05Ext && hintReserved h = 0 && p.supportedHints.contains h)

/-- Whether a store by a non-processor agent to the armed range must end a wait with this hint (40_mwait.md R96). -/
def deviceStoreIsDuty (p : Params) (h : Word32) : Bool :=
  p.nonprocStoreIsDutyAtC1 && hintSupported p h && !isDeepTarget (hintTarget h)

/-- ECX[0], the same bit as RCX[0] (10_state.md R13, R14). -/
def State.extIntBrk (s : State) : Bool := s.rcx.getLsbD 0

/-- ECX[31:1], or RCX[63:1] in 64-bit mode, is not zero (40_mwait.md R85, R86). -/
def State.extReservedSet (s : State) : Bool :=
  match s.mode with
  | .long64 => s.rcx.extractLsb' 1 63 ≠ 0
  | .real | .protectedMode | .virtual8086 | .compatibility => s.ecx.extractLsb' 1 31 ≠ 0

/-- The address MONITOR takes: EAX, or in 64-bit mode possibly all of RAX, which the spec leaves open
(41_monitor_companion.md R121; log 10). -/
def State.monitorAddress (s : State) : Nat :=
  match s.mode with
  | .long64 => if Config.monitorAddressIsRax then s.rax.toNat else s.eax.toNat
  | .real | .protectedMode | .virtual8086 | .compatibility => s.eax.toNat

/-- `MON_RANGE(addr)`: `addr` itself and a free rest (20_memory.md R44; log 9). -/
def monRange (addr : Nat) : List Nat := addr :: Config.monRangeRest addr

end Sys2Proof.Machine
end

