-- ==== Sys2Proof/Machine/Flags.lean ====
section
/-! DEFINITION. The one flag, EFLAGS.IF, and the bits that decide whether something happens: the CPUID feature bit,
`Deliverable`, the wake conditions. No instruction of this spec writes a flag (10_state.md R19). -/

namespace Sys2Proof.Machine

/-- `CPUID_01_ECX_MONITOR`: what the hardware has and IA32_MISC_ENABLE leaves enabled (10_state.md R22, R25). -/
def State.cpuid01Monitor (s : State) : Bool := s.params.hardwareHasMonitor && s.miscEnableMonitor

/-- `Deliverable(i)`: IF = 1, and the enclosing model does not hold `i` back (60_exceptions.md R145). -/
def State.deliverable (s : State) (i : Nat) : Bool := s.intFlag && !s.heldBack.contains i

/-- Whether a pending event may be delivered: only an external interrupt has a mask (60_exceptions.md R136). -/
def State.unmasked (s : State) : Event → Bool
  | .extInt i => s.deliverable i
  | .nmi | .smi | .debugException | .machineCheck | .binit | .init | .reset => true

/-- Whether a pending event obliges a processor waiting with `ext` to leave (40_mwait.md R93, R94). -/
def State.breaksWait (s : State) (ext : Bool) : Event → Bool
  | .extInt i => s.deliverable i || ext
  | .nmi | .smi | .debugException | .machineCheck | .binit | .init | .reset => true

/-- `Duty` (40_mwait.md R105): the waiting processor must leave the optimized state. -/
def State.duty (s : State) : Bool :=
  match s.run with
  | .executing => false
  | .waiting _ ext _ => s.mon = .idle || s.pending.any (s.breaksWait ext)

end Sys2Proof.Machine
end

