-- ==== Sys2Proof/Machine/Ops.lean ====
section
/-! DEFINITION. The shared operations: memory, the advance of `ip`, the end of a wait, taking an exception
(`Deliver`) and returning from one, and what RESET# and INIT# leave. -/

namespace Sys2Proof.Machine

/-- The byte at an address; none where nothing has been written (log 5). -/
def Memory.read : Memory → Nat → Option Byte
  | [], _ => none
  | (a', b) :: m, a => if a = a' then some b else Memory.read m a

/-- Writes one byte, keeping the canonical form. -/
def Memory.write : Memory → Nat → Byte → Memory
  | [], a, b => [(a, b)]
  | (a', b') :: m, a, b =>
    if a < a' then (a, b) :: (a', b') :: m
    else if a = a' then (a, b) :: m
    else (a', b') :: Memory.write m a b

/-- Writes bytes at ascending addresses (20_memory.md R41). -/
def Memory.writeBytes : Memory → Nat → List Byte → Memory
  | m, _, [] => m
  | m, a, b :: bs => Memory.writeBytes (m.write a b) (a + 1) bs

/-- Writes a list of cells in order. -/
def Memory.writeCells : Memory → List Host.Cell → Memory
  | m, [] => m
  | m, c :: cs => Memory.writeCells (m.write c.1 c.2) cs

/-- At most `n` bytes at ascending addresses, up to the first that nothing has written. -/
def Memory.window (m : Memory) (a : Nat) : Nat → List Byte
  | 0 => []
  | n + 1 =>
    match m.read a with
    | none => []
    | some b => b :: Memory.window m (a + 1) n

/-- Adds addresses to a list without repeats. -/
def noteStored (stored : List Nat) (addrs : List Nat) : List Nat :=
  addrs.foldl (fun l a => l.insert a) stored

/-- Removes the repeats of a list of events, which stands for a set. -/
def eventSet (es : List Event) : List Event := es.foldl (fun l e => l.insert e) []

/-- The pointer width of the mode the processor is in, a parameter of the enclosing model (10_state.md R18; log 7). -/
def State.pointerBits (s : State) : Nat := s.params.pointerWidths.bits s.mode

/-- `NextIP(ip, n)` at a pointer width: the address of the instruction after an `n`-byte one; none where it does not fit
(10_state.md R18). -/
def nextIp (bits : Nat) (ip : Word64) (n : Nat) : Option Word64 :=
  if ip.toNat + n < 2 ^ bits then some (BitVec.ofNat 64 (ip.toNat + n)) else none

/-- The exit step: `run <- Executing; mon <- Idle; ip <- next` (40_mwait.md R97, R92). An MWAIT that does not wait
completes in the same way (R90, R91). -/
def State.complete (next : Word64) (s : State) : State :=
  { s with run := .executing, mon := .idle, ip := next, entered := none }

/-- Sets level, flag and mode. A mode the processor does not have is not entered (log 36). -/
def State.setControl (c : Control) (s : State) : State :=
  { s with
    cpl := c.cpl
    intFlag := c.intFlag
    mode := if s.params.hasMode c.mode then c.mode else s.mode }

/-- Sets the general registers. -/
def State.setGprs (g : Gprs) (s : State) : State :=
  { s with rax := g.rax, rcx := g.rcx, edx := g.edx }

/-- Writes cells of memory and notes that they were stored to (20_memory.md R52). -/
def State.writeCells (cs : List Host.Cell) (s : State) : State :=
  { s with mem := s.mem.writeCells cs, stored := noteStored s.stored (cs.map Prod.fst) }

/-- `Deliver(cause, ret)` (60_exceptions.md R148): the call is recorded, and `ip`, `cpl`, `IF`, `mode` and memory
become what the enclosing model says, which is free (log 17). Nothing else changes. -/
def State.deliver (cause : Cause) (ret : Word64) (s : State) : State :=
  let e := Config.deliverEntry s.draws cause ret
  { (s.setControl e.control).writeCells e.writes with
    ip := e.ip
    frames := ⟨cause, ret⟩ :: s.frames
    draws := s.draws + 1 }

/-- The return of the latest handler (60_exceptions.md R149): control goes to the recorded address, never back into a
wait; what else the return restores is free (log 18). -/
def State.handlerReturn (f : Frame) (rest : List Frame) (s : State) : State :=
  let r := Config.returnValues s.draws f
  { ((s.setGprs r.gprs).setControl r.control).writeCells r.writes with
    ip := f.ret
    frames := rest
    draws := s.draws + 1 }

/-- What RESET# or INIT# leaves (10_state.md R32, 70_reset_and_hazards.md R170, R171): `run = Executing`,
`mon = Idle`, the event no longer pending, every other component free (log 19). -/
def State.start (e : Event) (v : StartValues) (s : State) : State :=
  { ((s.setGprs v.gprs).setControl v.control).writeCells v.writes with
    ip := v.ip
    miscEnableMonitor := v.miscEnableMonitor
    mon := .idle
    run := .executing
    pending := (eventSet v.pending).erase e
    frames := []
    entered := none
    draws := s.draws + 1 }

end Sys2Proof.Machine
end

