-- ==== Sys2Proof/Machine/Arm.lean ====
section
/-! DEFINITION. MONITOR, as the abstract arming action of 41_monitor_companion.md R120 and R121. It makes no check of
the feature bit, the level or the mode: R126. -/

namespace Sys2Proof.Machine

/-- What MONITOR leaves in the monitor hardware: armed on the range of the address, replacing any range before, or
idle where the arming does not succeed (41_monitor_companion.md R120). -/
def monitorOutcome (arms : Bool) (addr : Nat) : Monitor :=
  if arms then .armed (monRange addr) else .idle

/-- MONITOR (41_monitor_companion.md R120, R121). Whether it arms is a draw (log 12). -/
def execMonitor (s : State) : Host.Outcome State Fault Refusal :=
  if s.ecx = 0 ∧ s.edx = 0 then
    match nextIp s.pointerBits s.ip 3 with
    | none => .refused .nextIpDoesNotFit
    | some next =>
      .next { s with
        mon := monitorOutcome (Config.monitorArms s.draws) s.monitorAddress
        ip := next
        draws := s.draws + 1 }
  else .refused .monitorOperands

end Sys2Proof.Machine
end

