-- ==== Sys2Proof/Machine/Wait.lean ====
section
/-! DEFINITION. MWAIT (40_mwait.md): the checks, the decision to wait, and the two shapes of its outcome. -/

namespace Sys2Proof.Machine

/-- #GP(0), or #GP without an error code in real-address mode (40_mwait.md R88). -/
def gpCause : Mode → Cause
  | .real => .gp none
  | .protectedMode | .virtual8086 | .compatibility | .long64 => .gp (some 0)

/-- Whether the mode makes the privilege check (40_mwait.md R83; 92_eei_decisions.md D17, log 41). -/
def checksPrivilege : Mode → Bool
  | .protectedMode | .compatibility | .long64 => true
  | .real | .virtual8086 => false

/-- MWAIT's checks in the order of 40_mwait.md R105, lines 1 to 7: all #UD conditions before any #GP condition (R81). -/
def State.mwaitCheck (s : State) : Option Cause :=
  if s.mode = .virtual8086 then some .ud
  else if s.cpuid01Monitor = false then some .ud
  else if checksPrivilege s.mode ∧ s.cpl ≠ 0 then some .ud
  else if s.extReservedSet then some (gpCause s.mode)
  else if s.extIntBrk ∧ s.params.cpuid05IntBrk = false then some (gpCause s.mode)
  else none

/-- Line 15 of 40_mwait.md R105: the wait begins; `mon` stays armed and `ip` is not advanced. The state entered is a
draw no rule reads (10_state.md R29). -/
def State.enterWait (next : Word64) (s : State) : State :=
  { s with
    run := .waiting s.eax s.extIntBrk next
    entered := some (Config.enteredState s.draws s.eax) }

/-- Lines 13 to 15 of 40_mwait.md R105, for either choice: wait, or do not (R91). -/
def State.mwaitArmed (wait : Bool) (next : Word64) (s : State) : State :=
  let t := if wait then s.enterWait next else s.complete next
  { t with draws := s.draws + 1 }

/-- Stage 3 of 40_mwait.md R105: an idle monitor falls through (R90), an armed one leaves the choice (R91). -/
def State.mwaitIssue (next : Word64) (s : State) : State :=
  match s.mon with
  | .idle => s.complete next
  | .armed _ => s.mwaitArmed (Config.takesHint s.draws) next

/-- MWAIT.issue (40_mwait.md R105). -/
def execMwait (s : State) : Host.Outcome State Fault Refusal :=
  if s.params.guest then .refused .guest
  else
    match s.mwaitCheck with
    | some cause => .next (s.deliver cause s.ip)
    | none =>
      match nextIp s.pointerBits s.ip 3 with
      | none => .refused .nextIpDoesNotFit
      | some next => .next (s.mwaitIssue next)

end Sys2Proof.Machine
end

