-- ==== Sys2Proof/Machine/Dispatch.lean ====
section
/-! DEFINITION. The dispatch: one arm per instruction. -/

namespace Sys2Proof.Machine

def exec (i : Instr) (s : State) : Host.Outcome State Fault Refusal :=
  match i with
  | .mwait => Sys2Proof.Machine.execMwait s
  | .monitor => Sys2Proof.Machine.execMonitor s

end Sys2Proof.Machine
end

