-- ==== Sys2Proof/Machine/Turns.lean ====
section
/-! DEFINITION. What each agent does in its turn: the processor's own turn (fetch and execute, or leave the wait), the
stores and events of the other agents, and the enclosing model's actions. -/

namespace Sys2Proof.Machine

/-- How many bytes the fetch looks at. PRESUMED, safe (log 26): it decides only which name a refusal has. -/
def fetchLength : Nat := 15

/-- The bytes at `ip` in ascending order (20_memory.md R40, R41). -/
def State.fetchBytes (s : State) : List Byte := s.mem.window s.ip.toNat fetchLength

/-- Whether one of the `n` bytes at `ip` has been stored to since the launch (20_memory.md R52). -/
def State.textModified (s : State) (n : Nat) : Bool :=
  (List.range n).any (fun k => s.stored.contains (s.ip.toNat + k))

/-- Fetch, decode, execute (30_encoding.md R64; 40_mwait.md R105). -/
def State.fetchExec (s : State) : Host.Outcome State Fault Refusal :=
  match decode s.mode s.fetchBytes with
  | .ok (i, _) => if s.textModified (encode i).length then .refused .textModified else exec i s
  | .error .incomplete =>
    if s.fetchBytes.length = fetchLength then .refused .outsideSpec
    else .fault (.fetchUnwritten (s.ip.toNat + s.fetchBytes.length))
  | .error .prefixed => .refused .prefixedForm
  | .error .outsideSpec => .refused .outsideSpec

/-- The processor's turn. While it waits it executes nothing (10_state.md R27); under `Duty` it takes the exit step
(40_mwait.md R105, R108 (a)), otherwise it goes on waiting (R108 (b), (c)). -/
def State.coreTurn (s : State) : Host.Outcome State Fault Refusal :=
  match s.run with
  | .waiting _ _ next => .next (if s.duty then s.complete next else s)
  | .executing => s.fetchExec

/-- Whether a store of `n` bytes from `addr` writes a byte of the armed range (20_memory.md R44). -/
def Monitor.hitBy (addr n : Nat) : Monitor → Bool
  | .idle => false
  | .armed range => range.any (fun a => addr ≤ a && a < addr + n)

/-- Whether the monitor hardware must notice a store by this agent to the armed range (20_memory.md R45, R46;
40_mwait.md R96). -/
def State.storeMustTrigger (agent : Agent) (s : State) : Bool :=
  match agent with
  | .otherProcessor => true
  | .self => false
  | .nonProcessor =>
    match s.run with
    | .executing => true
    | .waiting hint _ _ => deviceStoreIsDuty s.params hint

/-- A store: memory changes, and the monitor hardware goes idle if the store is to the armed range and must be
noticed or is (20_memory.md R45, R46). A waiting processor issues no store (10_state.md R33 (b)). -/
def State.storeTurn (agent : Agent) (addr : Nat) (data : List Byte) (noticed : Bool) (s : State) : State :=
  if agent = .self ∧ s.run ≠ .executing then s
  else
    { s with
      mem := s.mem.writeBytes addr data
      stored := noteStored s.stored ((List.range data.length).map (addr + ·))
      mon := if s.mon.hitBy addr data.length ∧ (s.storeMustTrigger agent ∨ noticed) then .idle else s.mon }

/-- An event joins the pending set (10_state.md R28). -/
def State.arrive (e : Event) (s : State) : State := { s with pending := s.pending.insert e }

/-- An implementation-dependent exit from the wait (40_mwait.md R95, R97). -/
def State.implWake (s : State) : State :=
  match s.run with
  | .waiting _ _ next => s.complete next
  | .executing => s

/-- The delivery of one event, which leaves the pending set (60_exceptions.md R148 (b)); INIT# and RESET# start the
processor again (R143, R144); past BINIT# the spec says nothing (R142). -/
def State.deliverEvent (e : Event) (s : State) : Host.Outcome State Fault Refusal :=
  match e with
  | .binit => .refused .binit
  | .init => .next (s.start .init (Config.initValues s.draws))
  | .reset => .next (s.start .reset (Config.resetValues s.draws))
  | .nmi | .smi | .debugException | .machineCheck | .extInt _ =>
    .next ({ s with pending := s.pending.erase e }.deliver (.event e) s.ip)

/-- Delivery at an instruction boundary: only while executing, only of a pending event that is not masked
(40_mwait.md R98). -/
def State.deliverTurn (e : Event) (s : State) : Host.Outcome State Fault Refusal :=
  if s.run = .executing ∧ e ∈ s.pending ∧ s.unmasked e then s.deliverEvent e else .next s

/-- The return of the latest handler, if one is active and the processor executes (60_exceptions.md R149). -/
def State.returnTurn (s : State) : State :=
  match s.run, s.frames with
  | .executing, f :: rest => s.handlerReturn f rest
  | .executing, [] => s
  | .waiting _ _ _, _ => s

/-- The interrupts held back change. While the processor waits they can only be released, since a wake condition
once true stays true (40_mwait.md R93; log 21). -/
def State.holdBackTurn (held : List Nat) (s : State) : State :=
  match s.run with
  | .executing => { s with heldBack := held }
  | .waiting _ _ _ => { s with heldBack := s.heldBack.filter (held.contains ·) }

/-- A write of `misc_enable_monitor`, at privilege level 0 (10_state.md R25). -/
def State.miscEnableTurn (enabled : Bool) (s : State) : State :=
  if s.cpl = 0 then { s with miscEnableMonitor := enabled } else s

/-- An instruction outside this spec; none is executed while the processor waits (10_state.md R27). -/
def State.enclosingTurn (g : Gprs) (ip : Word64) (c : Control) (s : State) : State :=
  match s.run with
  | .executing => { (s.setGprs g).setControl c with ip := ip }
  | .waiting _ _ _ => s

/-- One turn. -/
def State.turn (t : Turn) (s : State) : Host.Outcome State Fault Refusal :=
  match t with
  | .core => s.coreTurn
  | .arrive e => .next (s.arrive e)
  | .store agent addr data noticed => .next (s.storeTurn agent addr data noticed)
  | .load _ _ => .next s
  | .implWake => .next s.implWake
  | .deliver e => s.deliverTurn e
  | .handlerReturn => .next s.returnTurn
  | .holdBack held => .next (s.holdBackTurn held)
  | .writeMiscEnable enabled => .next (s.miscEnableTurn enabled)
  | .enclosing g ip c => .next (s.enclosingTurn g ip c)

/-- The turn that comes next; with an empty schedule it is the processor's (log 16). -/
def State.nextTurn (s : State) : Turn := s.turns.headD .core

/-- Whether nothing may run any more: an executing processor with BINIT# pending (60_exceptions.md R142). -/
def State.pastBinit (s : State) : Bool := s.run = .executing && s.pending.contains .binit

end Sys2Proof.Machine
end

