-- ==== Sys2Proof/Machine/Step.lean ====
section
/-! DEFINITION. One step of the machine: the next turn of the schedule. -/

namespace Sys2Proof.Machine

/-- One step is one turn. A guest is refused (60_exceptions.md R151), and so is going on past BINIT# (R142). -/
def step (s : State) : Host.Outcome State Fault Refusal :=
  if s.params.guest then .refused .guest
  else if s.pastBinit then .refused .binit
  else { s with turns := s.turns.tail }.turn s.nextTurn

/-- The state with an instruction of the opcode table at `ip`, loaded from outside the machine (log 37), so that the
next step fetches and runs it: it executes, it is its turn, no BINIT# is pending, it is no guest, and the loaded bytes
are no modified text. -/
def State.withFetchWord (s : State) (nbits w : Nat) : State :=
  let bytes := tableBytes nbits w
  { s with
    mem := s.mem.writeBytes s.ip.toNat bytes
    stored := s.stored.filter (fun a => !(s.ip.toNat ≤ a && a < s.ip.toNat + bytes.length))
    run := .executing
    pending := s.pending.filter (· ≠ .binit)
    params := { s.params with guest := false }
    turns := if s.turns = [] then [] else .core :: s.turns }

end Sys2Proof.Machine
end

