-- ==== Sys2Proof/Safety.lean ====
section
/-! DEFINITION. What the claims are stated with: when an MWAIT passes its checks, what a frame leaves alone, and the
invariant of the machine. -/

namespace Sys2Proof.Machine

/-- The next state of an outcome, if there is one. -/
def nextOf : Host.Outcome State Fault Refusal → Option State
  | .next t => some t
  | .fault _ => none
  | .refused _ => none

/-- No #UD condition of 60_exceptions.md R130 holds: the bytes are MWAIT here. -/
structure State.Recognised (s : State) : Prop where
  notVirtual8086 : s.mode ≠ .virtual8086
  feature : s.params.hardwareHasMonitor = true ∧ s.miscEnableMonitor = true
  level : s.mode = .real ∨ s.cpl = 0

/-- The reserved part of the extension register is zero, said by its number: all of RCX in 64-bit mode, its low half in
the others (40_mwait.md R85, R86). -/
def State.ExtensionReservedClear (s : State) : Prop :=
  (s.mode = .long64 → s.rcx.toNat < 2) ∧ (s.mode ≠ .long64 → s.rcx.toNat % 2 ^ 32 < 2)

/-- Bit 0 of the extension register is 1 only where the processor supports it (40_mwait.md R87). -/
def State.ExtensionSupported (s : State) : Prop :=
  s.rcx.toNat % 2 = 1 → s.params.cpuid05IntBrk = true

/-- Every check of MWAIT passes and the processor is no guest (40_mwait.md R82 to R87, 60_exceptions.md R151). -/
structure State.PassesMwaitChecks (s : State) : Prop where
  notGuest : s.params.guest = false
  recognised : s.Recognised
  reservedClear : s.ExtensionReservedClear
  supported : s.ExtensionSupported

/-- `ip + 3` fits the pointer width of the mode, a parameter (10_state.md R18; log 7). -/
def State.NextIpFits (s : State) : Prop := s.ip.toNat + 3 < 2 ^ s.pointerBits

/-- The next turn is the processor's and the three bytes at `ip` are those of `i`, unmodified since the launch. -/
structure State.AboutToExecute (s : State) (i : Instr) : Prop where
  executing : s.run = .executing
  turn : s.nextTurn = .core
  notGuest : s.params.guest = false
  noBinit : Event.binit ∉ s.pending
  bytes : ∀ k < 3, s.mem.read (s.ip.toNat + k) = (encode i)[k]?
  unmodified : ∀ k < 3, s.ip.toNat + k ∉ s.stored

/-- The state with one turn of the schedule used. -/
def State.afterTurn (s : State) : State := { s with turns := s.turns.tail }

/-- The general registers of the spec, IA32_MISC_ENABLE's bit and the parameters are the same. -/
structure SameRegisters (s t : State) : Prop where
  rax : t.rax = s.rax
  rcx : t.rcx = s.rcx
  edx : t.edx = s.edx
  miscEnable : t.miscEnableMonitor = s.miscEnableMonitor
  params : t.params = s.params

/-- The flag IF, the privilege level and the mode are the same. -/
structure SameControl (s t : State) : Prop where
  intFlag : t.intFlag = s.intFlag
  cpl : t.cpl = s.cpl
  mode : t.mode = s.mode

/-- Every byte of memory reads as before, and none was stored to. -/
structure SameMemory (s t : State) : Prop where
  bytes : ∀ a, t.mem.read a = s.mem.read a
  stored : t.stored = s.stored

/-- What the environment feeds the processor with is the same. -/
structure SameEnvironment (s t : State) : Prop where
  pending : t.pending = s.pending
  heldBack : t.heldBack = s.heldBack
  turns : t.turns = s.turns

/-- The store of `n` bytes from `addr` writes a byte of `range` (20_memory.md R44). -/
def StoreHits (range : List Nat) (addr n : Nat) : Prop := ∃ a ∈ range, addr ≤ a ∧ a < addr + n

/-- The invariant of the machine: memory canonical, the pending events a set, the mode one that the processor has,
and a wait's record true: the hint is EAX, the extension bit ECX[0], `next` the address three past `ip`, and the
extension bit set only where it is supported (10_state.md R27, R28, R33). -/
structure State.Inv (s : State) : Prop where
  memWf : s.mem.wf
  pendingSet : s.pending.Nodup
  modeExists : s.params.hasMode s.mode = true
  waitHint : ∀ h e n, s.run = .waiting h e n → h = s.eax
  waitExt : ∀ h e n, s.run = .waiting h e n → e = s.extIntBrk
  waitNext : ∀ h e n, s.run = .waiting h e n → n.toNat = s.ip.toNat + 3
  waitSupported : ∀ h n, s.run = .waiting h true n → s.params.cpuid05IntBrk = true

end Sys2Proof.Machine
end

