-- ==== Sys2Proof/Certificates/Slice0/Obligations.lean ====
section
/-! DEFINITION. The statements for the provers. Each docstring names the rule of spec/ it formalises, and says where a
clause is the model's or the spec's own choice. -/

open Sys2Proof Sys2Proof.Machine

/-! ### Encoding -/

/-- R60: MWAIT is the three bytes 0F 01 C9 at ascending addresses, with nothing variable, in every mode. -/
def Obligations.MwaitIsExactlyThreeFixedBytes : Prop :=
  ∀ (m : Mode) (bs rest : List Byte), decode m bs = .ok (.mwait, rest) ↔ bs = 0x0F :: 0x01 :: 0xC9 :: rest

/-- The vectors A1 to A9 of 95_test_vectors.md, and the two words of the opcode table (log 14 for MONITOR's, log 27 for
the table's byte order). -/
def Obligations.DecodesTheSpecsVectors : Prop :=
  decode .protectedMode [0x0F, 0x01, 0xC9] = .ok (.mwait, [])
  ∧ decode .long64 [0x0F, 0x01, 0xC9, 0x90] = .ok (.mwait, [0x90])
  ∧ decode .protectedMode [0x0F, 0x01, 0xC8] = .ok (.monitor, [])
  ∧ decode .protectedMode [0x0F, 0x01, 0xCA] = .error .outsideSpec
  ∧ decode .protectedMode [0x0F, 0x01] = .error .incomplete
  ∧ decode .protectedMode [0x66, 0x0F, 0x01, 0xC9] = .error .prefixed
  ∧ decode .protectedMode [0xF3, 0x0F, 0x01, 0xC9] = .error .prefixed
  ∧ decode .protectedMode [0xF0, 0x0F, 0x01, 0xC9] = .error .prefixed
  ∧ decode .long64 [0x48, 0x0F, 0x01, 0xC9] = .error .prefixed
  ∧ decodeTableWord 24 0x0F01C9 = some .mwait
  ∧ decodeTableWord 24 0x0F01C8 = some .monitor

/-- Decode and encode agree, both ways and in every mode: no bit of an encoding is dropped, no other bytes are taken
for an instruction, and the mode changes no result (R64). -/
def Obligations.DecodeAndEncodeAgree : Prop :=
  ∀ m : Mode,
    (∀ (i : Instr) (rest : List Byte), i.wellFormed = true → decode m (encode i ++ rest) = .ok (i, rest))
    ∧ (∀ (bs : List Byte) (i : Instr) (rest : List Byte),
        decode m bs = .ok (i, rest) → i.wellFormed = true ∧ bs = encode i ++ rest)

/-- R65, the spec's decision D2: an encoding behind prefix bytes is refused by name. MONITOR's prefixed forms and the
values of the segment-override bytes are the model's (log 26). -/
def Obligations.PrefixedFormsAreRefusedByName : Prop :=
  (∀ m : Mode, ∀ p ∈ ([0x66, 0x67, 0xF2, 0xF3, 0xF0] : List Byte), isPrefixByte m p = true)
  ∧ (∀ p : Byte, 0x40 ≤ p.toNat → p.toNat ≤ 0x4F → isPrefixByte .long64 p = true)
  ∧ (∀ (m : Mode) (ps : List Byte) (i : Instr) (rest : List Byte), ps ≠ [] →
      (∀ p ∈ ps, isPrefixByte m p = true) → decode m (ps ++ (encode i ++ rest)) = .error .prefixed)

/-! ### The step -/

/-- A step of an executing processor whose turn it is runs the instruction that stands at `ip`, with that turn used.
Turns and the stops named in the hypothesis are the model's (logs 16, 20, 28, 29). -/
def Obligations.StepRunsTheDecodedInstruction : Prop :=
  ∀ (s : State) (i : Instr), s.AboutToExecute i → step s = exec i s.afterTurn

/-- Bytes that are no instruction of this spec stop the processor's turn, under the name the decoder gives. R64 says only
that other bytes are not MWAIT and that the enclosing model decides: the refusal of the turn is the model's (log 34).
The stop on a prefixed form is the spec's decision D2 (log 26). Bytes that run out before a decision are the model's too:
the turn faults at the first address that nothing has written (log 5), or is refused where the 15 bytes the fetch looks
at are all written (log 26). -/
def Obligations.StepRefusesWhatIsNoInstruction : Prop :=
  ∀ s : State, s.run = .executing → s.nextTurn = .core → s.params.guest = false → Event.binit ∉ s.pending →
    (decode s.mode s.fetchBytes = .error .prefixed → step s = .refused .prefixedForm)
    ∧ (decode s.mode s.fetchBytes = .error .outsideSpec → step s = .refused .outsideSpec)
    ∧ (decode s.mode s.fetchBytes = .error .incomplete →
        (∀ n < 15, s.mem.read (s.ip.toNat + n) = none → (∀ k < n, s.mem.read (s.ip.toNat + k) ≠ none) →
          step s = .fault (.fetchUnwritten (s.ip.toNat + n)))
        ∧ ((∀ k < 15, s.mem.read (s.ip.toNat + k) ≠ none) → step s = .refused .outsideSpec))

/-- A word of the opcode table placed by `withFetchWord` is what the very next step runs, from every state (log 37). -/
def Obligations.WithFetchWordRunsTheTableRow : Prop :=
  ∀ s : State,
    step (s.withFetchWord 24 0x0F01C9) = exec .mwait { s.withFetchWord 24 0x0F01C9 with turns := s.turns }
    ∧ step (s.withFetchWord 24 0x0F01C8) = exec .monitor { s.withFetchWord 24 0x0F01C8 with turns := s.turns }

/-- R52, the spec's decision D14 in the model's form (log 28): an instruction whose bytes were stored to since the
launch is not executed. -/
def Obligations.ModifiedProgramTextIsRefused : Prop :=
  ∀ (s : State) (i : Instr), s.run = .executing → s.nextTurn = .core → s.params.guest = false →
    Event.binit ∉ s.pending → (∀ k < 3, s.mem.read (s.ip.toNat + k) = (encode i)[k]?) →
    (∃ k < 3, s.ip.toNat + k ∈ s.stored) → step s = .refused .textModified

/-- R151, the spec's decision D20: nothing runs on a guest. -/
def Obligations.GuestIsRefused : Prop :=
  ∀ s : State, s.params.guest = true → step s = .refused .guest ∧ exec .mwait s = .refused .guest

/-! ### MWAIT: the checks -/

/-- R84: in virtual-8086 mode MWAIT raises #UD whatever else holds. `raise UD` is `Deliver(UD, ip)` by R9. -/
def Obligations.VirtualModeRaisesInvalidOpcode : Prop :=
  ∀ s : State, s.params.guest = false → s.mode = .virtual8086 → exec .mwait s = .next (s.deliver .ud s.ip)

/-- R82: with the feature bit 0, for want of the hardware or because IA32_MISC_ENABLE disables it, MWAIT raises #UD in
every mode. `raise UD` is `Deliver(UD, ip)` by R9. -/
def Obligations.FeatureBitClearRaisesInvalidOpcode : Prop :=
  ∀ s : State, s.params.guest = false → (s.params.hardwareHasMonitor = false ∨ s.miscEnableMonitor = false) →
    s.cpuid01Monitor = false ∧ exec .mwait s = .next (s.deliver .ud s.ip)

/-- R83: outside level 0 MWAIT raises #UD in protected, compatibility and 64-bit mode. That real-address mode makes no
such check is the spec's decision D17 (log 41). -/
def Obligations.PrivilegeIsCheckedExceptInRealMode : Prop :=
  (∀ s : State, s.params.guest = false → s.mode ∈ [Mode.protectedMode, .compatibility, .long64] → s.cpl ≠ 0 →
    exec .mwait s = .next (s.deliver .ud s.ip))
  ∧ (∀ (s : State) (level : Fin 4), s.mode = .real → s.PassesMwaitChecks → s.NextIpFits →
      ∃ t, exec .mwait { s with cpl := level } = .next t ∧ t.frames = s.frames)

/-- R85: in the modes other than 64-bit mode a reserved bit of ECX raises #GP(0), or #GP in real-address mode. That the
bits of RCX above bit 31 do not matter there is the spec's decision D18 (log 40). -/
def Obligations.ReservedEcxBitsRaiseGp : Prop :=
  (∀ s : State, s.params.guest = false → s.Recognised → s.mode ≠ .long64 → 2 ≤ s.rcx.toNat % 2 ^ 32 →
    exec .mwait s = .next (s.deliver (if s.mode = .real then .gp none else .gp (some 0)) s.ip))
  ∧ (∀ (s : State) (r : Word64), s.mode ≠ .long64 → r.toNat % 2 ^ 32 = s.rcx.toNat % 2 ^ 32 →
      { s with rcx := r }.mwaitCheck = s.mwaitCheck)

/-- R86: in 64-bit mode any bit of RCX above bit 0 raises #GP(0), and RCX = 1 goes on to the check of R87. `raise`
is `Deliver` with `ip` by R9. -/
def Obligations.ReservedRcxBitsRaiseGp : Prop :=
  ∀ s : State, s.params.guest = false → s.Recognised → s.mode = .long64 →
    (2 ≤ s.rcx.toNat → exec .mwait s = .next (s.deliver (.gp (some 0)) s.ip))
    ∧ (s.rcx.toNat = 1 → s.params.cpuid05IntBrk = true → s.mwaitCheck = none)

/-- R87: bit 0 of the extension register without support raises #GP(0), or #GP in real-address mode. `raise` is
`Deliver` with `ip` by R9. -/
def Obligations.IntBreakWithoutSupportRaisesGp : Prop :=
  ∀ s : State, s.params.guest = false → s.Recognised → s.rcx.toNat % 2 = 1 → s.params.cpuid05IntBrk = false →
    exec .mwait s = .next (s.deliver (if s.mode = .real then .gp none else .gp (some 0)) s.ip)

/-- R81 and the matrix of R134: #UD exactly where a #UD condition holds, whatever the operands; otherwise #GP where an
operand condition holds. That #UD comes first is the spec's decision D1 (log 31). -/
def Obligations.InvalidOpcodePrecedesGp : Prop :=
  ∀ s : State, s.params.guest = false →
    (¬ s.Recognised → exec .mwait s = .next (s.deliver .ud s.ip))
    ∧ (s.Recognised → ¬ (s.ExtensionReservedClear ∧ s.ExtensionSupported) →
        exec .mwait s = .next (s.deliver (if s.mode = .real then .gp none else .gp (some 0)) s.ip))

/-- R106 with R88: MWAIT raises nothing but #UD, #GP in real-address mode, and #GP(0) in the others; `raise` is `Deliver`
with `ip` by R9. -/
def Obligations.MwaitRaisesOnlyUdAndGp : Prop :=
  ∀ s t : State, exec .mwait s = .next t →
    t.frames = s.frames
    ∨ t.frames = ⟨.ud, s.ip⟩ :: s.frames
    ∨ (s.mode = .real ∧ t.frames = ⟨.gp none, s.ip⟩ :: s.frames)
    ∨ (s.mode ∈ [Mode.protectedMode, .compatibility, .long64] ∧ t.frames = ⟨.gp (some 0), s.ip⟩ :: s.frames)

/-- R89 and R100, resting on the spec's decisions D3 and D4: RAX changes nothing that MWAIT does but the hint that a
wait records, and of RAX that is the low half. -/
def Obligations.EaxIsOnlyRecorded : Prop :=
  ∀ (s t : State) (r : Word64), s.run = .executing → exec .mwait s = .next t → t.frames = s.frames →
    ∃ t', exec .mwait { s with rax := r } = .next t' ∧ t'.frames = t.frames ∧ t'.ip = t.ip ∧ t'.mon = t.mon
      ∧ ((t.run = .executing ∧ t'.run = .executing)
        ∨ ∃ (h h' : Word32) (e : Bool) (n : Word64), t.run = .waiting h e n ∧ t'.run = .waiting h' e n
            ∧ h.toNat = s.rax.toNat % 2 ^ 32 ∧ h'.toNat = r.toNat % 2 ^ 32)

/-! ### MWAIT: to wait or not -/

/-- R90: with the monitor idle MWAIT does not wait; it is a three-byte no-op on every component of the spec's state. `NextIP`
is a parameter (log 7), and `entered` is the model's record (log 30). -/
def Obligations.IdleMonitorFallsThrough : Prop :=
  ∀ s : State, s.run = .executing → s.PassesMwaitChecks → s.NextIpFits → s.mon = .idle →
    ∃ n : Word64, n.toNat = s.ip.toNat + 3 ∧ exec .mwait s = .next { s with ip := n, entered := none }

/-- R91: with the monitor armed MWAIT waits, with `mon` armed and `ip` as before, or completes at once, by a choice
that nothing constrains (log 15). The alternative outcome is derived in the spec. The value in `entered` is free
(log 30), `NextIP` is a parameter (log 7). -/
def Obligations.ArmedMonitorLeavesTheChoice : Prop :=
  ∀ (s : State) (range : List Nat), s.run = .executing → s.PassesMwaitChecks → s.NextIpFits → s.mon = .armed range →
    ∃ (n : Word64) (state : Byte), n.toNat = s.ip.toNat + 3 ∧
      exec .mwait s = .next
        (if Config.takesHint s.draws then
          { s with
            run := .waiting (s.rax.extractLsb' 0 32) (decide (s.rcx.toNat % 2 = 1)) n
            entered := some state
            draws := s.draws + 1 }
        else { s with mon := .idle, ip := n, entered := none, draws := s.draws + 1 })

/-- R92: a completed MWAIT leaves the monitor idle, by whichever way; so an MWAIT with no new MONITOR does not wait.
That a faulting MWAIT leaves it alone is the spec's decision D5. -/
def Obligations.MwaitConsumesTheArming : Prop :=
  (∀ s t : State, s.run = .executing → exec .mwait s = .next t → t.frames = s.frames → t.run = .executing →
    t.mon = .idle ∧ ∀ u, exec .mwait t = .next u → u.run = .executing)
  ∧ (∀ s t : State, exec .mwait s = .next t → t.frames ≠ s.frames → t.mon = s.mon)

/-- R103, which the spec marks as derived: a completed or waiting MWAIT writes no register, no flag and no memory; only
`ip`, `mon` and `run` may differ (and the model's own `entered` and `draws`). That no flag is written is the spec's
decision D22 (log 32, DESIGN CHOICE, unsafe). -/
def Obligations.MwaitWritesNothingElse : Prop :=
  ∀ s t : State, exec .mwait s = .next t → t.frames = s.frames →
    SameRegisters s t ∧ SameControl s t ∧ SameMemory s t ∧ SameEnvironment s t
    ∧ (t.ip = s.ip ∨ t.ip.toNat = s.ip.toNat + 3)

/-- R133 and R148 (a): an MWAIT that raises changes nothing but what `Deliver` may change, which is called with the
address of the MWAIT. The fault class is the spec's decision D24; what `Deliver` changes in `ip`, `cpl`, `IF`, `mode` and
memory is free (log 17); the bytes it may change are those this one `Deliver` writes. -/
def Obligations.FaultingMwaitChangesOnlyByDelivery : Prop :=
  ∀ s t : State, exec .mwait s = .next t → t.frames ≠ s.frames →
    ∃ c, t.frames = ⟨c, s.ip⟩ :: s.frames ∧ SameRegisters s t ∧ SameEnvironment s t
      ∧ t.mon = s.mon ∧ t.run = s.run ∧ t.entered = s.entered
      ∧ ∀ a ∉ (Config.deliverEntry s.draws c s.ip).writes.map Prod.fst, t.mem.read a = s.mem.read a

/-- R18, the spec's decision D7: where `ip + 3` does not fit the mode's pointer width MWAIT has no step. The width of each
mode is a parameter (log 7). The clause about MONITOR applies the same to R120's advance of `ip` by the length of MONITOR:
that length is three bytes by R122's general knowledge (log 14, PRESUMED, unsafe), and which bits of ECX and EDX must be 0
(R121) is log 11 (DEDUCED, unsafe). -/
def Obligations.NoStepWhereNextIpDoesNotFit : Prop :=
  ∀ s : State, ¬ s.NextIpFits →
    (s.PassesMwaitChecks → exec .mwait s = .refused .nextIpDoesNotFit)
    ∧ (s.ecx = 0 → s.edx = 0 → exec .monitor s = .refused .nextIpDoesNotFit)

/-- R102: once its checks pass, what MWAIT does depends on the mode in nothing but whether `ip + 3` fits the
mode's pointer width, a parameter (log 7). -/
def Obligations.SameOperationInEveryMode : Prop :=
  ∀ (s t : State) (m : Mode), s.PassesMwaitChecks → { s with mode := m }.PassesMwaitChecks →
    s.NextIpFits → { s with mode := m }.NextIpFits →
    exec .mwait s = .next t → exec .mwait { s with mode := m } = .next { t with mode := m }

/-! ### The wait and its end -/

/-- R97: whatever ends a wait, it ends by `run <- Executing; mon <- Idle; ip <- next` and nothing else: no register, no
flag, and the event stays pending. That `entered` is cleared is the model's (log 30). -/
def Obligations.EveryExitLeadsToNext : Prop :=
  ∀ (s t : State) (h : Word32) (e : Bool) (n : Word64), s.run = .waiting h e n → step s = .next t →
    t.run = .executing →
    t = { s with run := .executing, mon := .idle, ip := n, entered := none, turns := s.turns.tail }

/-- R93: each of the unconditional events ends the wait: a store seen as `mon = Idle`, NMI, SMI, debug exception,
machine check, BINIT#, INIT#, RESET#. That the exit is taken in the processor's own turn is the model's (log 22), and so is
`entered` (log 30). -/
def Obligations.DutyEventsEndTheWait : Prop :=
  ∀ (s : State) (h : Word32) (e : Bool) (n : Word64), s.run = .waiting h e n → s.params.guest = false →
    s.nextTurn = .core →
    (s.mon = .idle ∨ ∃ v ∈ s.pending, v ∈ [Event.nmi, .smi, .debugException, .machineCheck, .binit, .init, .reset]) →
    step s = .next { s with run := .executing, mon := .idle, ip := n, entered := none, turns := s.turns.tail }

/-- R94: a pending external interrupt obliges the processor to leave exactly where it is deliverable or the extension
bit is set; where neither holds for any, and no other duty event is there, the processor's turn leaves it waiting.
`Deliverable` is the spec's decision D12 (log 21); `entered` is the model's (log 30). -/
def Obligations.ExternalInterruptsEndTheWaitIfDeliverableOrAsked : Prop :=
  ∀ (s : State) (h : Word32) (e : Bool) (n : Word64), s.run = .waiting h e n → s.params.guest = false →
    s.nextTurn = .core →
    ((∃ i, Event.extInt i ∈ s.pending ∧ ((s.intFlag = true ∧ i ∉ s.heldBack) ∨ e = true)) →
      step s = .next { s with run := .executing, mon := .idle, ip := n, entered := none, turns := s.turns.tail })
    ∧ (s.mon ≠ .idle → e = false →
        (∀ v ∈ s.pending, ∃ i, v = .extInt i ∧ (s.intFlag = false ∨ i ∈ s.heldBack)) →
        step s = .next s.afterTurn)

/-- R94 and R98: an interrupt masked by IF = 0 ends a wait whose extension bit is set, stays pending, and is not
delivered at the boundary after the exit. -/
def Obligations.MaskedInterruptWakesWithoutDelivery : Prop :=
  ∀ (s : State) (h : Word32) (n : Word64) (i : Nat) (rest : List Turn), s.run = .waiting h true n →
    s.params.guest = false → s.intFlag = false → Event.extInt i ∈ s.pending → Event.binit ∉ s.pending →
    s.turns = .core :: .deliver (.extInt i) :: rest →
    ∃ t, step s = .next t ∧ t.run = .executing ∧ t.ip = n ∧ Event.extInt i ∈ t.pending
      ∧ step t = .next t.afterTurn

/-- R95: an exit is there in every waiting state, with no condition, and it is the same exit. `entered` is the model's
(log 30). -/
def Obligations.LibertyExitFromEveryWait : Prop :=
  ∀ (s : State) (h : Word32) (e : Bool) (n : Word64) (rest : List Turn), s.run = .waiting h e n →
    s.params.guest = false →
    step { s with turns := .implWake :: rest }
      = .next { s with run := .executing, mon := .idle, ip := n, entered := none, turns := rest }

/-- R93, its last sentence: each duty condition, once true, stays true until the exit step is taken: an idle monitor, a
pending event, a deliverable external interrupt (`ext` is part of the record, which stays), and so the duty itself. That
an interrupt stays deliverable rests on `heldBack` only shrinking during a wait (log 21). -/
def Obligations.DutyPersistsUntilTheExit : Prop :=
  ∀ (s t : State) (h : Word32) (e : Bool) (n : Word64), s.run = .waiting h e n → step s = .next t →
    t.run = .executing
    ∨ (t.run = .waiting h e n ∧ (s.mon = .idle → t.mon = .idle) ∧ (∀ v ∈ s.pending, v ∈ t.pending)
      ∧ (∀ i, s.deliverable i = true → t.deliverable i = true) ∧ (s.duty = true → t.duty = true))

/-- R108 (a): under a duty the exit is taken. Whatever the other agents still do, the processor has left at the latest
when the schedule is used up and it has had one turn more. That a schedule is finite is the model's form of weak
fairness (logs 16, 22). -/
def Obligations.DutyExitIsTakenWithinTheSchedule : Prop :=
  ∀ (s : State) (h : Word32) (e : Bool) (n : Word64), s.run = .waiting h e n → s.params.guest = false →
    s.duty = true →
    ∃ k t, k ≤ s.turns.length + 1 ∧ core.run k s = .next t
      ∧ t.run = .executing ∧ t.mon = .idle ∧ t.ip = n ∧ SameRegisters { s with miscEnableMonitor := t.miscEnableMonitor } t

/-- R108 (b), (c): with no duty and nothing more to come, waiting for ever is a run of the machine. -/
def Obligations.WaitWithoutDutyIsAHang : Prop :=
  ∀ (s : State) (h : Word32) (e : Bool) (n : Word64), s.run = .waiting h e n → s.params.guest = false →
    s.duty = false → s.turns = [] → ∀ k, core.run k s = .next s

/-- R27: while it waits the processor changes no register, flag, level or mode, and where it still waits after a step,
its record and `ip` are the same. -/
def Obligations.WaitingProcessorIsQuiet : Prop :=
  ∀ (s t : State) (h : Word32) (e : Bool) (n : Word64), s.run = .waiting h e n → step s = .next t →
    t.rax = s.rax ∧ t.rcx = s.rcx ∧ t.edx = s.edx ∧ SameControl s t ∧ t.frames = s.frames
    ∧ (t.run = .executing ∨ (t.run = .waiting h e n ∧ t.ip = s.ip))

/-- R26, R27, R33: nothing enters the wait but an MWAIT that passes its checks with the monitor armed. -/
def Obligations.OnlyMwaitEntersTheWait : Prop :=
  ∀ s t : State, s.run = .executing → step s = .next t →
    (s.nextTurn ≠ .core ∨ s.mon = .idle ∨ ¬ s.PassesMwaitChecks
      ∨ ¬ ∃ rest, s.fetchBytes = 0x0F :: 0x01 :: 0xC9 :: rest) →
    t.run = .executing

/-- R26: nothing arms the monitor hardware but MONITOR; every other step leaves it or makes it idle. -/
def Obligations.OnlyMonitorArms : Prop :=
  ∀ s t : State, step s = .next t →
    (s.nextTurn ≠ .core ∨ s.run ≠ .executing ∨ ¬ ∃ rest, s.fetchBytes = 0x0F :: 0x01 :: 0xC8 :: rest) →
    t.mon = s.mon ∨ t.mon = .idle

/-! ### Stores and the monitored range -/

/-- R45: while the processor executes, a store of any value by another agent of either class to the armed range
triggers the monitor, so that the MWAIT executed next does not wait. That it is not lost is the spec's decision D10. -/
def Obligations.StoreBeforeMwaitIsNotLost : Prop :=
  ∀ (s : State) (agent : Agent) (addr : Nat) (data : List Byte) (noticed : Bool) (range : List Nat) (rest : List Turn),
    s.run = .executing → s.params.guest = false → Event.binit ∉ s.pending → agent ≠ .self →
    s.mon = .armed range → StoreHits range addr data.length →
    s.turns = .store agent addr data noticed :: rest →
    ∃ t, step s = .next t ∧ t.mon = .idle ∧ t.run = .executing ∧ SameRegisters s t ∧ SameControl s t
      ∧ t.ip = s.ip ∧ ∀ u, exec .mwait t = .next u → u.run = .executing

/-- R45, R93 (1): a store of any value by another processor to the armed range ends the wait, whatever the hint: the
monitor goes idle and the processor's next turn is the exit. -/
def Obligations.ProcessorStoreEndsTheWait : Prop :=
  ∀ (s : State) (h : Word32) (e : Bool) (n : Word64) (addr : Nat) (data : List Byte) (noticed : Bool)
    (range : List Nat) (rest : List Turn), s.run = .waiting h e n → s.params.guest = false →
    s.mon = .armed range → StoreHits range addr data.length →
    s.turns = .store .otherProcessor addr data noticed :: .core :: rest →
    ∃ t u, step s = .next t ∧ t.mon = .idle ∧ t.run = s.run ∧ step t = .next u
      ∧ u.run = .executing ∧ u.ip = n ∧ SameRegisters s u ∧ SameControl s u

/-- R46, R96: a non-processor agent's store to the armed range must end a wait whose hint names C1 or C0 and is one the
processor acts on; for any other hint it may or may not, which the turn says. The test on the requested state, the worst
case for other hints and the switch are the spec's decisions D8 and D4 (log 25). -/
def Obligations.DeviceStoreIsADutyOnlyAtShallowHints : Prop :=
  ∀ (s : State) (h : Word32) (e : Bool) (n : Word64) (addr : Nat) (data : List Byte) (noticed : Bool)
    (range : List Nat) (rest : List Turn), s.run = .waiting h e n → s.params.guest = false →
    s.mon = .armed range → StoreHits range addr data.length →
    s.turns = .store .nonProcessor addr data noticed :: rest →
    ∃ t, step s = .next t ∧ t.run = s.run ∧
      (s.params.nonprocStoreIsDutyAtC1 = true → (h.toNat / 16 % 16 = 0 ∨ h.toNat / 16 % 16 = 15) →
        (h = 0 ∨ (s.params.cpuid05Ext = true ∧ h.toNat < 256 ∧ h ∈ s.params.supportedHints)) → t.mon = .idle)
      ∧ ((s.params.nonprocStoreIsDutyAtC1 = false ∨ (1 ≤ h.toNat / 16 % 16 ∧ h.toNat / 16 % 16 ≤ 14)
          ∨ (h ≠ 0 ∧ (s.params.cpuid05Ext = false ∨ 256 ≤ h.toNat ∨ h ∉ s.params.supportedHints))) →
          t.mon = if noticed then .idle else .armed range)

/-- R46, the spec's decision D9, and R33 (b): a store by the processor itself to its own armed range may or may not
trigger the monitor, which the turn says; a waiting processor stores nothing. -/
def Obligations.OwnStoreMayTrigger : Prop :=
  ∀ (s : State) (addr : Nat) (data : List Byte) (noticed : Bool) (range : List Nat) (rest : List Turn),
    s.params.guest = false → Event.binit ∉ s.pending → s.mon = .armed range → StoreHits range addr data.length →
    s.turns = .store .self addr data noticed :: rest →
    (s.run = .executing → ∃ t, step s = .next t ∧ t.mon = if noticed then .idle else .armed range)
    ∧ (s.run ≠ .executing → step s = .next s.afterTurn)

/-- R45, R54: a store outside the armed range leaves the monitor as it is, and a load anywhere changes nothing at all. -/
def Obligations.OtherAccessesLeaveTheMonitor : Prop :=
  (∀ (s t : State) (agent : Agent) (addr : Nat) (data : List Byte) (noticed : Bool) (range : List Nat)
      (rest : List Turn), s.turns = .store agent addr data noticed :: rest → s.mon = .armed range →
      ¬ StoreHits range addr data.length → step s = .next t → t.mon = .armed range)
  ∧ (∀ (s t : State) (agent : Agent) (addr : Nat) (rest : List Turn), s.turns = .load agent addr :: rest →
      step s = .next t → t = s.afterTurn)

/-- R9's `MemWrite` of another agent in the model's form of a store turn (log 42): byte `k` of the data lands at
`addr + k` and no other byte changes; it touches no register, no flag, not `ip`, not the run state. The spec gives stored
data no byte order and says that it does not matter to the monitor (D13). -/
def Obligations.StoreWritesExactlyItsBytes : Prop :=
  ∀ (s t : State) (agent : Agent) (addr : Nat) (data : List Byte) (noticed : Bool) (rest : List Turn),
    s.turns = .store agent addr data noticed :: rest → (agent = .self → s.run = .executing) → step s = .next t →
    (∀ k < data.length, t.mem.read (addr + k) = data[k]?)
    ∧ (∀ a, (a < addr ∨ addr + data.length ≤ a) → t.mem.read a = s.mem.read a)
    ∧ SameRegisters s t ∧ SameControl s t ∧ t.ip = s.ip ∧ t.run = s.run ∧ t.pending = s.pending
    ∧ t.frames = s.frames

/-- R52: a byte of memory changes in a step only where the step notes the address as stored to, and no note is lost; so
an instruction that is executed has the bytes it had at the launch (log 28). -/
def Obligations.MemoryChangesOnlyWhereNoted : Prop :=
  ∀ s t : State, step s = .next t →
    (∀ a ∉ t.stored, t.mem.read a = s.mem.read a) ∧ (∀ a ∈ s.stored, a ∈ t.stored)

/-! ### MONITOR -/

/-- R120, the law of R44, and R121's precondition: with ECX = 0 and EDX = 0 MONITOR advances `ip` by 3 and arms a range
that contains its address, replacing any range before, or does not succeed and leaves the monitor idle, by a choice
nothing constrains (log 12); it changes nothing else. The address is EAX, and in 64-bit mode EAX or RAX, which is open
(log 10). That it completes in every mode, at every level and whatever the feature bit is the model's (log 13, DEDUCED,
unsafe: R126 only says that MWAIT's conditions are not assumed of it); so are which bits of ECX and EDX it examines
(log 11, DEDUCED, unsafe) and its length of three bytes (log 14, PRESUMED, unsafe). Replacement is the spec's decision D33,
the open range D25 (log 9); `NextIP` is a parameter (log 7). -/
def Obligations.MonitorArmsARangeAroundItsAddress : Prop :=
  ∀ s : State, s.rcx.toNat % 2 ^ 32 = 0 → s.edx = 0 → s.NextIpFits →
    ∃ (n : Word64) (range : List Nat), n.toNat = s.ip.toNat + 3
      ∧ (s.mode ≠ .long64 → s.rax.toNat % 2 ^ 32 ∈ range)
      ∧ (s.mode = .long64 → s.rax.toNat % 2 ^ 32 ∈ range ∨ s.rax.toNat ∈ range)
      ∧ exec .monitor s = .next
          { s with
            mon := if Config.monitorArms s.draws then .armed range else .idle
            ip := n
            draws := s.draws + 1 }

/-- R121: MONITOR with ECX or EDX not 0 is refused. Which bits of them it examines is the model's (log 11). -/
def Obligations.MonitorRefusesOtherOperands : Prop :=
  ∀ s : State, (s.rcx.toNat % 2 ^ 32 ≠ 0 ∨ s.edx ≠ 0) → exec .monitor s = .refused .monitorOperands

/-! ### Exceptions and events -/

/-- R28: an event that arrives joins the set of pending events and changes nothing else. -/
def Obligations.ArrivalAddsToThePendingSet : Prop :=
  ∀ (s t : State) (e : Event) (rest : List Turn), s.turns = .arrive e :: rest → step s = .next t →
    (∀ v, v ∈ t.pending ↔ v = e ∨ v ∈ s.pending) ∧ t = { s with pending := t.pending, turns := rest }

/-- R148 (b): the delivery of an event at an instruction boundary records the event and `ip` as the return address and
removes the event from the pending set; registers, monitor and run state stay. What it does to `ip`, `cpl`, `IF`, `mode`
and memory is free: the spec's decision D16 (log 17). -/
def Obligations.DeliveryRecordsTheBoundary : Prop :=
  ∀ (s : State) (e : Event) (rest : List Turn), s.run = .executing → s.params.guest = false →
    Event.binit ∉ s.pending → e ∉ [Event.binit, .init, .reset] → e ∈ s.pending →
    (∀ i, e = .extInt i → s.intFlag = true ∧ i ∉ s.heldBack) → s.turns = .deliver e :: rest →
    ∃ t, step s = .next t ∧ t.frames = ⟨.event e, s.ip⟩ :: s.frames ∧ t.pending = s.pending.erase e
      ∧ SameRegisters s t ∧ t.mon = s.mon ∧ t.run = .executing

/-- R98, R145: what is not pending, or is masked, is not delivered: an external interrupt only with IF = 1. -/
def Obligations.MaskedOrAbsentEventsAreNotDelivered : Prop :=
  ∀ (s t : State) (e : Event) (rest : List Turn), s.turns = .deliver e :: rest →
    (s.run ≠ .executing ∨ e ∉ s.pending ∨ (s.intFlag = false ∧ ∃ i, e = .extInt i)) → step s = .next t →
    t = s.afterTurn

/-- R98: an unmasked event that ends a wait is delivered, at the boundary after the exit, with the address after the
MWAIT as its return address. -/
def Obligations.WakeEventIsDeliveredWithNext : Prop :=
  ∀ (s : State) (h : Word32) (ext : Bool) (n : Word64) (e : Event) (rest : List Turn), s.run = .waiting h ext n →
    s.params.guest = false → Event.binit ∉ s.pending → e ∉ [Event.binit, .init, .reset] → e ∈ s.pending →
    (∀ i, e = .extInt i → s.intFlag = true ∧ i ∉ s.heldBack) → s.turns = .core :: .deliver e :: rest →
    ∃ t, core.run 2 s = .next t ∧ t.frames = ⟨.event e, n⟩ :: s.frames ∧ t.run = .executing ∧ t.mon = .idle
      ∧ t.pending = s.pending.erase e ∧ SameRegisters s t

/-- R99: an SMI ends the wait and is delivered with `next`; when its handler returns, execution goes on at `next` and
not in the wait. That a return takes the latest frame and leaves the monitor is the model's (log 18, DESIGN CHOICE,
unsafe); the turns are log 16. -/
def Obligations.NoRestartAfterSmi : Prop :=
  (∀ (s : State) (h : Word32) (ext : Bool) (n : Word64) (rest : List Turn), s.run = .waiting h ext n →
    s.params.guest = false → Event.binit ∉ s.pending → Event.smi ∈ s.pending →
    s.turns = .core :: .deliver .smi :: rest →
    ∃ t, core.run 2 s = .next t ∧ t.frames = ⟨.event .smi, n⟩ :: s.frames)
  ∧ (∀ (u : State) (n : Word64) (below : List Frame) (rest : List Turn), u.run = .executing →
      u.params.guest = false → Event.binit ∉ u.pending → u.frames = ⟨.event .smi, n⟩ :: below →
      u.turns = .handlerReturn :: rest →
      ∃ v, step u = .next v ∧ v.run = .executing ∧ v.ip = n ∧ v.frames = below ∧ v.mon = u.mon)

/-- R149: a handler's return leads to the address recorded at the delivery, with the processor executing; after a fault
of MWAIT that is the MWAIT itself (the fault class is the spec's decision D24). What else it restores is free (log 18). -/
def Obligations.ReturnLeadsToTheRecordedAddress : Prop :=
  (∀ (s : State) (f : Frame) (below : List Frame) (rest : List Turn), s.run = .executing → s.params.guest = false →
    Event.binit ∉ s.pending → s.frames = f :: below → s.turns = .handlerReturn :: rest →
    ∃ t, step s = .next t ∧ t.ip = f.ret ∧ t.run = .executing ∧ t.frames = below ∧ t.mon = s.mon
      ∧ t.pending = s.pending)
  ∧ (∀ s t : State, exec .mwait s = .next t → t.frames ≠ s.frames → t.frames.head?.map Frame.ret = some s.ip)

/-- R142: BINIT# ends the wait, and the model refuses to continue past it. That this is the refusal of every step of an
executing processor with BINIT# pending, whichever turn it is and whether or not it had waited, is the model's (log 20,
DEDUCED). -/
def Obligations.NothingRunsPastBinit : Prop :=
  ∀ s : State, s.params.guest = false → Event.binit ∈ s.pending →
    (s.run = .executing → step s = .refused .binit)
    ∧ (s.run ≠ .executing → s.duty = true)

/-- R143, R144, R170, R171: after INIT# or RESET# has been handled the processor executes with the monitor idle, and the
event is no longer pending. That the monitor does not stay armed is the spec's decision D6; every other component is free
(log 19). -/
def Obligations.InitAndResetLeaveExecutingAndIdle : Prop :=
  ∀ (s : State) (e : Event) (rest : List Turn), s.run = .executing → s.params.guest = false →
    Event.binit ∉ s.pending → (e = .init ∨ e = .reset) → e ∈ s.pending → s.turns = .deliver e :: rest →
    ∃ t, step s = .next t ∧ t.run = .executing ∧ t.mon = .idle ∧ e ∉ t.pending ∧ t.params = s.params

/-- R25, the spec's decision D27: the operating system or BIOS writes the enable bit at level 0 only, the feature bit is
the hardware's and the enable bit's conjunction, and nothing else changes. -/
def Obligations.MiscEnableIsWrittenAtLevelZero : Prop :=
  ∀ (s t : State) (enabled : Bool) (rest : List Turn), s.turns = .writeMiscEnable enabled :: rest →
    step s = .next t →
    (s.cpl = 0 → t = { s with miscEnableMonitor := enabled, turns := rest }
      ∧ t.cpuid01Monitor = (s.params.hardwareHasMonitor && enabled))
    ∧ (s.cpl ≠ 0 → t = { s with turns := rest })

/-! ### The whole machine -/

/-- R6: no step changes a parameter of the implementation. -/
def Obligations.ParametersAreFixed : Prop :=
  ∀ s t : State, step s = .next t → t.params = s.params

/-- R29: no rule reads the state entered: two machines that differ only in it stop alike or go on alike. -/
def Obligations.EnteredStateIsNeverRead : Prop :=
  ∀ (s : State) (x : Option Byte),
    (∀ t, step s = .next t →
      ∃ t', step { s with entered := x } = .next t' ∧ { t' with entered := none } = { t with entered := none })
    ∧ (∀ r, step s = .fault r → step { s with entered := x } = .fault r)
    ∧ (∀ r, step s = .refused r → step { s with entered := x } = .refused r)

/-- R32, its rows for `run` and `mon`: after reset the processor executes with the monitor idle. -/
def Obligations.ResetExecutesWithMonitorIdle : Prop :=
  State.reset.run = .executing ∧ State.reset.mon = .idle

/-- The invariant holds at reset. -/
def Obligations.ResetMeetsTheInvariant : Prop := State.reset.Inv

/-- The invariant, kept by every step from every state that meets it: memory is canonical, the pending events are a set,
the mode is one the processor has, and the record of a wait is true of the registers, with the extension bit only where
it is supported (R27, R28, R33 (a)). -/
def Obligations.EveryStepKeepsTheInvariant : Prop :=
  ∀ s t : State, s.Inv → step s = .next t → t.Inv

/-- R12: the C-state a target field names (the value 15 for C0 is the spec's decision D21), and "higher than C1" as the
range 1 to 14. -/
def Obligations.TargetFieldNamesACState : Prop :=
  cStateOf 0 = 1 ∧ cStateOf 1 = 2 ∧ cStateOf 14 = 15 ∧ cStateOf 15 = 0
  ∧ ∀ t : BitVec 4, isDeepTarget t = true ↔ 1 < cStateOf t
end

