-- ==== Sys2Proof/Laws/State.lean ====
section
/-! SUPPORT. One lemma per field per update of the state, so that no later proof unfolds an update. -/

namespace Sys2Proof.Machine

section
variable (n : Word64) (s : State)

@[simp] theorem State.complete_rax : (s.complete n).rax = s.rax := rfl
@[simp] theorem State.complete_rcx : (s.complete n).rcx = s.rcx := rfl
@[simp] theorem State.complete_edx : (s.complete n).edx = s.edx := rfl
@[simp] theorem State.complete_ip : (s.complete n).ip = n := rfl
@[simp] theorem State.complete_intFlag : (s.complete n).intFlag = s.intFlag := rfl
@[simp] theorem State.complete_cpl : (s.complete n).cpl = s.cpl := rfl
@[simp] theorem State.complete_mode : (s.complete n).mode = s.mode := rfl
@[simp] theorem State.complete_miscEnableMonitor : (s.complete n).miscEnableMonitor = s.miscEnableMonitor := rfl
@[simp] theorem State.complete_params : (s.complete n).params = s.params := rfl
@[simp] theorem State.complete_mon : (s.complete n).mon = .idle := rfl
@[simp] theorem State.complete_run : (s.complete n).run = .executing := rfl
@[simp] theorem State.complete_pending : (s.complete n).pending = s.pending := rfl
@[simp] theorem State.complete_mem : (s.complete n).mem = s.mem := rfl
@[simp] theorem State.complete_frames : (s.complete n).frames = s.frames := rfl
@[simp] theorem State.complete_entered : (s.complete n).entered = none := rfl
@[simp] theorem State.complete_heldBack : (s.complete n).heldBack = s.heldBack := rfl
@[simp] theorem State.complete_turns : (s.complete n).turns = s.turns := rfl
@[simp] theorem State.complete_stored : (s.complete n).stored = s.stored := rfl
@[simp] theorem State.complete_draws : (s.complete n).draws = s.draws := rfl

end

section
variable (c : Control) (s : State)

@[simp] theorem State.setControl_rax : (s.setControl c).rax = s.rax := rfl
@[simp] theorem State.setControl_rcx : (s.setControl c).rcx = s.rcx := rfl
@[simp] theorem State.setControl_edx : (s.setControl c).edx = s.edx := rfl
@[simp] theorem State.setControl_ip : (s.setControl c).ip = s.ip := rfl
@[simp] theorem State.setControl_intFlag : (s.setControl c).intFlag = c.intFlag := rfl
@[simp] theorem State.setControl_cpl : (s.setControl c).cpl = c.cpl := rfl
@[simp] theorem State.setControl_mode : (s.setControl c).mode = if s.params.hasMode c.mode then c.mode else s.mode := rfl
@[simp] theorem State.setControl_miscEnableMonitor : (s.setControl c).miscEnableMonitor = s.miscEnableMonitor := rfl
@[simp] theorem State.setControl_params : (s.setControl c).params = s.params := rfl
@[simp] theorem State.setControl_mon : (s.setControl c).mon = s.mon := rfl
@[simp] theorem State.setControl_run : (s.setControl c).run = s.run := rfl
@[simp] theorem State.setControl_pending : (s.setControl c).pending = s.pending := rfl
@[simp] theorem State.setControl_mem : (s.setControl c).mem = s.mem := rfl
@[simp] theorem State.setControl_frames : (s.setControl c).frames = s.frames := rfl
@[simp] theorem State.setControl_entered : (s.setControl c).entered = s.entered := rfl
@[simp] theorem State.setControl_heldBack : (s.setControl c).heldBack = s.heldBack := rfl
@[simp] theorem State.setControl_turns : (s.setControl c).turns = s.turns := rfl
@[simp] theorem State.setControl_stored : (s.setControl c).stored = s.stored := rfl
@[simp] theorem State.setControl_draws : (s.setControl c).draws = s.draws := rfl

end

section
variable (g : Gprs) (s : State)

@[simp] theorem State.setGprs_rax : (s.setGprs g).rax = g.rax := rfl
@[simp] theorem State.setGprs_rcx : (s.setGprs g).rcx = g.rcx := rfl
@[simp] theorem State.setGprs_edx : (s.setGprs g).edx = g.edx := rfl
@[simp] theorem State.setGprs_ip : (s.setGprs g).ip = s.ip := rfl
@[simp] theorem State.setGprs_intFlag : (s.setGprs g).intFlag = s.intFlag := rfl
@[simp] theorem State.setGprs_cpl : (s.setGprs g).cpl = s.cpl := rfl
@[simp] theorem State.setGprs_mode : (s.setGprs g).mode = s.mode := rfl
@[simp] theorem State.setGprs_miscEnableMonitor : (s.setGprs g).miscEnableMonitor = s.miscEnableMonitor := rfl
@[simp] theorem State.setGprs_params : (s.setGprs g).params = s.params := rfl
@[simp] theorem State.setGprs_mon : (s.setGprs g).mon = s.mon := rfl
@[simp] theorem State.setGprs_run : (s.setGprs g).run = s.run := rfl
@[simp] theorem State.setGprs_pending : (s.setGprs g).pending = s.pending := rfl
@[simp] theorem State.setGprs_mem : (s.setGprs g).mem = s.mem := rfl
@[simp] theorem State.setGprs_frames : (s.setGprs g).frames = s.frames := rfl
@[simp] theorem State.setGprs_entered : (s.setGprs g).entered = s.entered := rfl
@[simp] theorem State.setGprs_heldBack : (s.setGprs g).heldBack = s.heldBack := rfl
@[simp] theorem State.setGprs_turns : (s.setGprs g).turns = s.turns := rfl
@[simp] theorem State.setGprs_stored : (s.setGprs g).stored = s.stored := rfl
@[simp] theorem State.setGprs_draws : (s.setGprs g).draws = s.draws := rfl

end

section
variable (cs : List Host.Cell) (s : State)

@[simp] theorem State.writeCells_rax : (s.writeCells cs).rax = s.rax := rfl
@[simp] theorem State.writeCells_rcx : (s.writeCells cs).rcx = s.rcx := rfl
@[simp] theorem State.writeCells_edx : (s.writeCells cs).edx = s.edx := rfl
@[simp] theorem State.writeCells_ip : (s.writeCells cs).ip = s.ip := rfl
@[simp] theorem State.writeCells_intFlag : (s.writeCells cs).intFlag = s.intFlag := rfl
@[simp] theorem State.writeCells_cpl : (s.writeCells cs).cpl = s.cpl := rfl
@[simp] theorem State.writeCells_mode : (s.writeCells cs).mode = s.mode := rfl
@[simp] theorem State.writeCells_miscEnableMonitor : (s.writeCells cs).miscEnableMonitor = s.miscEnableMonitor := rfl
@[simp] theorem State.writeCells_params : (s.writeCells cs).params = s.params := rfl
@[simp] theorem State.writeCells_mon : (s.writeCells cs).mon = s.mon := rfl
@[simp] theorem State.writeCells_run : (s.writeCells cs).run = s.run := rfl
@[simp] theorem State.writeCells_pending : (s.writeCells cs).pending = s.pending := rfl
@[simp] theorem State.writeCells_mem : (s.writeCells cs).mem = s.mem.writeCells cs := rfl
@[simp] theorem State.writeCells_frames : (s.writeCells cs).frames = s.frames := rfl
@[simp] theorem State.writeCells_entered : (s.writeCells cs).entered = s.entered := rfl
@[simp] theorem State.writeCells_heldBack : (s.writeCells cs).heldBack = s.heldBack := rfl
@[simp] theorem State.writeCells_turns : (s.writeCells cs).turns = s.turns := rfl
@[simp] theorem State.writeCells_stored : (s.writeCells cs).stored = noteStored s.stored (cs.map Prod.fst) := rfl
@[simp] theorem State.writeCells_draws : (s.writeCells cs).draws = s.draws := rfl

end

section
variable (n : Word64) (s : State)

@[simp] theorem State.enterWait_rax : (s.enterWait n).rax = s.rax := rfl
@[simp] theorem State.enterWait_rcx : (s.enterWait n).rcx = s.rcx := rfl
@[simp] theorem State.enterWait_edx : (s.enterWait n).edx = s.edx := rfl
@[simp] theorem State.enterWait_ip : (s.enterWait n).ip = s.ip := rfl
@[simp] theorem State.enterWait_intFlag : (s.enterWait n).intFlag = s.intFlag := rfl
@[simp] theorem State.enterWait_cpl : (s.enterWait n).cpl = s.cpl := rfl
@[simp] theorem State.enterWait_mode : (s.enterWait n).mode = s.mode := rfl
@[simp] theorem State.enterWait_miscEnableMonitor : (s.enterWait n).miscEnableMonitor = s.miscEnableMonitor := rfl
@[simp] theorem State.enterWait_params : (s.enterWait n).params = s.params := rfl
@[simp] theorem State.enterWait_mon : (s.enterWait n).mon = s.mon := rfl
@[simp] theorem State.enterWait_run : (s.enterWait n).run = .waiting s.eax s.extIntBrk n := rfl
@[simp] theorem State.enterWait_pending : (s.enterWait n).pending = s.pending := rfl
@[simp] theorem State.enterWait_mem : (s.enterWait n).mem = s.mem := rfl
@[simp] theorem State.enterWait_frames : (s.enterWait n).frames = s.frames := rfl
@[simp] theorem State.enterWait_entered : (s.enterWait n).entered = some (Config.enteredState s.draws s.eax) := rfl
@[simp] theorem State.enterWait_heldBack : (s.enterWait n).heldBack = s.heldBack := rfl
@[simp] theorem State.enterWait_turns : (s.enterWait n).turns = s.turns := rfl
@[simp] theorem State.enterWait_stored : (s.enterWait n).stored = s.stored := rfl
@[simp] theorem State.enterWait_draws : (s.enterWait n).draws = s.draws := rfl

end

section
variable (c : Cause) (r : Word64) (s : State)

@[simp] theorem State.deliver_rax : (s.deliver c r).rax = s.rax := rfl
@[simp] theorem State.deliver_rcx : (s.deliver c r).rcx = s.rcx := rfl
@[simp] theorem State.deliver_edx : (s.deliver c r).edx = s.edx := rfl
@[simp] theorem State.deliver_ip : (s.deliver c r).ip = (Config.deliverEntry s.draws c r).ip := rfl
@[simp] theorem State.deliver_intFlag : (s.deliver c r).intFlag = (Config.deliverEntry s.draws c r).control.intFlag := rfl
@[simp] theorem State.deliver_cpl : (s.deliver c r).cpl = (Config.deliverEntry s.draws c r).control.cpl := rfl
@[simp] theorem State.deliver_miscEnableMonitor : (s.deliver c r).miscEnableMonitor = s.miscEnableMonitor := rfl
@[simp] theorem State.deliver_params : (s.deliver c r).params = s.params := rfl
@[simp] theorem State.deliver_mon : (s.deliver c r).mon = s.mon := rfl
@[simp] theorem State.deliver_run : (s.deliver c r).run = s.run := rfl
@[simp] theorem State.deliver_pending : (s.deliver c r).pending = s.pending := rfl
@[simp] theorem State.deliver_mem : (s.deliver c r).mem = s.mem.writeCells (Config.deliverEntry s.draws c r).writes := rfl
@[simp] theorem State.deliver_frames : (s.deliver c r).frames = ⟨c, r⟩ :: s.frames := rfl
@[simp] theorem State.deliver_entered : (s.deliver c r).entered = s.entered := rfl
@[simp] theorem State.deliver_heldBack : (s.deliver c r).heldBack = s.heldBack := rfl
@[simp] theorem State.deliver_turns : (s.deliver c r).turns = s.turns := rfl
@[simp] theorem State.deliver_stored : (s.deliver c r).stored = noteStored s.stored ((Config.deliverEntry s.draws c r).writes.map Prod.fst) := rfl
@[simp] theorem State.deliver_draws : (s.deliver c r).draws = s.draws + 1 := rfl

end

section
variable (f : Frame) (l : List Frame) (s : State)

@[simp] theorem State.handlerReturn_ip : (s.handlerReturn f l).ip = f.ret := rfl
@[simp] theorem State.handlerReturn_miscEnableMonitor : (s.handlerReturn f l).miscEnableMonitor = s.miscEnableMonitor := rfl
@[simp] theorem State.handlerReturn_params : (s.handlerReturn f l).params = s.params := rfl
@[simp] theorem State.handlerReturn_mon : (s.handlerReturn f l).mon = s.mon := rfl
@[simp] theorem State.handlerReturn_run : (s.handlerReturn f l).run = s.run := rfl
@[simp] theorem State.handlerReturn_pending : (s.handlerReturn f l).pending = s.pending := rfl
@[simp] theorem State.handlerReturn_mem : (s.handlerReturn f l).mem = s.mem.writeCells (Config.returnValues s.draws f).writes := rfl
@[simp] theorem State.handlerReturn_frames : (s.handlerReturn f l).frames = l := rfl
@[simp] theorem State.handlerReturn_entered : (s.handlerReturn f l).entered = s.entered := rfl
@[simp] theorem State.handlerReturn_heldBack : (s.handlerReturn f l).heldBack = s.heldBack := rfl
@[simp] theorem State.handlerReturn_turns : (s.handlerReturn f l).turns = s.turns := rfl
@[simp] theorem State.handlerReturn_stored : (s.handlerReturn f l).stored = noteStored s.stored ((Config.returnValues s.draws f).writes.map Prod.fst) := rfl
@[simp] theorem State.handlerReturn_draws : (s.handlerReturn f l).draws = s.draws + 1 := rfl

end

section
variable (e : Event) (v : StartValues) (s : State)

@[simp] theorem State.start_rax : (s.start e v).rax = v.gprs.rax := rfl
@[simp] theorem State.start_rcx : (s.start e v).rcx = v.gprs.rcx := rfl
@[simp] theorem State.start_edx : (s.start e v).edx = v.gprs.edx := rfl
@[simp] theorem State.start_ip : (s.start e v).ip = v.ip := rfl
@[simp] theorem State.start_intFlag : (s.start e v).intFlag = v.control.intFlag := rfl
@[simp] theorem State.start_cpl : (s.start e v).cpl = v.control.cpl := rfl
@[simp] theorem State.start_mode : (s.start e v).mode = if s.params.hasMode v.control.mode then v.control.mode else s.mode := rfl
@[simp] theorem State.start_miscEnableMonitor : (s.start e v).miscEnableMonitor = v.miscEnableMonitor := rfl
@[simp] theorem State.start_params : (s.start e v).params = s.params := rfl
@[simp] theorem State.start_mon : (s.start e v).mon = .idle := rfl
@[simp] theorem State.start_run : (s.start e v).run = .executing := rfl
@[simp] theorem State.start_pending : (s.start e v).pending = (eventSet v.pending).erase e := rfl
@[simp] theorem State.start_mem : (s.start e v).mem = s.mem.writeCells v.writes := rfl
@[simp] theorem State.start_frames : (s.start e v).frames = [] := rfl
@[simp] theorem State.start_entered : (s.start e v).entered = none := rfl
@[simp] theorem State.start_heldBack : (s.start e v).heldBack = s.heldBack := rfl
@[simp] theorem State.start_turns : (s.start e v).turns = s.turns := rfl
@[simp] theorem State.start_stored : (s.start e v).stored = noteStored s.stored (v.writes.map Prod.fst) := rfl
@[simp] theorem State.start_draws : (s.start e v).draws = s.draws + 1 := rfl

end

section
variable (e : Event) (s : State)

@[simp] theorem State.arrive_rax : (s.arrive e).rax = s.rax := rfl
@[simp] theorem State.arrive_rcx : (s.arrive e).rcx = s.rcx := rfl
@[simp] theorem State.arrive_edx : (s.arrive e).edx = s.edx := rfl
@[simp] theorem State.arrive_ip : (s.arrive e).ip = s.ip := rfl
@[simp] theorem State.arrive_intFlag : (s.arrive e).intFlag = s.intFlag := rfl
@[simp] theorem State.arrive_cpl : (s.arrive e).cpl = s.cpl := rfl
@[simp] theorem State.arrive_mode : (s.arrive e).mode = s.mode := rfl
@[simp] theorem State.arrive_miscEnableMonitor : (s.arrive e).miscEnableMonitor = s.miscEnableMonitor := rfl
@[simp] theorem State.arrive_params : (s.arrive e).params = s.params := rfl
@[simp] theorem State.arrive_mon : (s.arrive e).mon = s.mon := rfl
@[simp] theorem State.arrive_run : (s.arrive e).run = s.run := rfl
@[simp] theorem State.arrive_pending : (s.arrive e).pending = s.pending.insert e := rfl
@[simp] theorem State.arrive_mem : (s.arrive e).mem = s.mem := rfl
@[simp] theorem State.arrive_frames : (s.arrive e).frames = s.frames := rfl
@[simp] theorem State.arrive_entered : (s.arrive e).entered = s.entered := rfl
@[simp] theorem State.arrive_heldBack : (s.arrive e).heldBack = s.heldBack := rfl
@[simp] theorem State.arrive_turns : (s.arrive e).turns = s.turns := rfl
@[simp] theorem State.arrive_stored : (s.arrive e).stored = s.stored := rfl
@[simp] theorem State.arrive_draws : (s.arrive e).draws = s.draws := rfl

end

section
variable (s : State)

@[simp] theorem State.afterTurn_rax : s.afterTurn.rax = s.rax := rfl
@[simp] theorem State.afterTurn_rcx : s.afterTurn.rcx = s.rcx := rfl
@[simp] theorem State.afterTurn_edx : s.afterTurn.edx = s.edx := rfl
@[simp] theorem State.afterTurn_ip : s.afterTurn.ip = s.ip := rfl
@[simp] theorem State.afterTurn_intFlag : s.afterTurn.intFlag = s.intFlag := rfl
@[simp] theorem State.afterTurn_cpl : s.afterTurn.cpl = s.cpl := rfl
@[simp] theorem State.afterTurn_mode : s.afterTurn.mode = s.mode := rfl
@[simp] theorem State.afterTurn_miscEnableMonitor : s.afterTurn.miscEnableMonitor = s.miscEnableMonitor := rfl
@[simp] theorem State.afterTurn_params : s.afterTurn.params = s.params := rfl
@[simp] theorem State.afterTurn_mon : s.afterTurn.mon = s.mon := rfl
@[simp] theorem State.afterTurn_run : s.afterTurn.run = s.run := rfl
@[simp] theorem State.afterTurn_pending : s.afterTurn.pending = s.pending := rfl
@[simp] theorem State.afterTurn_mem : s.afterTurn.mem = s.mem := rfl
@[simp] theorem State.afterTurn_frames : s.afterTurn.frames = s.frames := rfl
@[simp] theorem State.afterTurn_entered : s.afterTurn.entered = s.entered := rfl
@[simp] theorem State.afterTurn_heldBack : s.afterTurn.heldBack = s.heldBack := rfl
@[simp] theorem State.afterTurn_turns : s.afterTurn.turns = s.turns.tail := rfl
@[simp] theorem State.afterTurn_stored : s.afterTurn.stored = s.stored := rfl
@[simp] theorem State.afterTurn_draws : s.afterTurn.draws = s.draws := rfl

end

end Sys2Proof.Machine
end

