-- ==== Sys2Proof/Laws/Check.lean ====
section
/-! SUPPORT. MWAIT's checks: when they pass, and which causes they give. -/

namespace Sys2Proof.Machine

/-- The low half of a 64-bit number, read as a number. -/
theorem ecx_toNat (s : State) : s.ecx.toNat = s.rcx.toNat % 2 ^ 32 := by
  simp [State.ecx, BitVec.extractLsb'_toNat]

/-- Bit 0 of the extension register as a remainder. -/
theorem extIntBrk_eq (s : State) : s.extIntBrk = decide (s.rcx.toNat % 2 = 1) := by
  simp [State.extIntBrk, BitVec.getLsbD, Nat.testBit_zero]

/-- The reserved part in 64-bit mode. -/
theorem extReservedSet_long64 {s : State} (h : s.mode = .long64) :
    s.extReservedSet = decide (2 ≤ s.rcx.toNat) := by
  have h64 := s.rcx.isLt
  have hz : (0 : BitVec 63).toNat = 0 := rfl
  unfold State.extReservedSet
  rw [h]
  simp only [ne_eq, decide_not]
  rw [Bool.eq_iff_iff]
  simp only [Bool.not_eq_true', decide_eq_false_iff_not, decide_eq_true_eq, ← BitVec.toNat_inj,
    BitVec.extractLsb'_toNat, Nat.shiftRight_eq_div_pow, pow_one]
  omega

/-- The reserved part in the other modes. -/
theorem extReservedSet_other {s : State} (h : s.mode ≠ .long64) :
    s.extReservedSet = decide (2 ≤ s.rcx.toNat % 2 ^ 32) := by
  have h32 := s.ecx.isLt
  have hz : (0 : BitVec 31).toNat = 0 := rfl
  have : s.extReservedSet = decide (s.ecx.extractLsb' 1 31 ≠ 0) := by
    unfold State.extReservedSet
    split
    · rename_i h'; exact absurd h' h
    all_goals rfl
  rw [this, ← ecx_toNat]
  rw [Bool.eq_iff_iff]
  simp only [ne_eq, decide_eq_true_eq, ← BitVec.toNat_inj,
    BitVec.extractLsb'_toNat, Nat.shiftRight_eq_div_pow, pow_one]
  omega

/-- The reserved part is clear exactly when no reserved bit is seen. -/
theorem reservedClear_iff (s : State) : s.ExtensionReservedClear ↔ s.extReservedSet = false := by
  unfold State.ExtensionReservedClear
  by_cases h : s.mode = .long64
  · rw [extReservedSet_long64 h]; simp [h]
  · rw [extReservedSet_other h]; simp [h]

/-- No #UD condition holds exactly when the first three lines of the checks pass. -/
theorem recognised_iff (s : State) : s.Recognised ↔
    s.mode ≠ .virtual8086 ∧ s.cpuid01Monitor = true ∧ ¬ (checksPrivilege s.mode ∧ s.cpl ≠ 0) := by
  constructor
  · intro ⟨h1, h2, h3⟩
    refine ⟨h1, by simp [State.cpuid01Monitor, h2], ?_⟩
    rcases h3 with h3 | h3 <;> simp [h3, checksPrivilege]
  · intro ⟨h1, h2, h3⟩
    simp only [State.cpuid01Monitor, Bool.and_eq_true] at h2
    refine ⟨h1, h2, ?_⟩
    cases hm : s.mode <;> simp_all [checksPrivilege]

/-- A #UD condition gives #UD whatever the operands are. -/
theorem mwaitCheck_ud {s : State} (h : ¬ s.Recognised) : s.mwaitCheck = some .ud := by
  rw [recognised_iff] at h
  unfold State.mwaitCheck
  split
  · rfl
  · split
    · rfl
    · split
      · rfl
      · rename_i h1 h2 h3
        exact absurd ⟨h1, by simpa using h2, h3⟩ h

/-- With no #UD condition, the checks are those of the operands. -/
theorem mwaitCheck_recognised {s : State} (h : s.Recognised) : s.mwaitCheck =
    if s.extReservedSet ∨ (s.extIntBrk ∧ s.params.cpuid05IntBrk = false) then some (gpCause s.mode) else none := by
  obtain ⟨h1, h2, h3⟩ := (recognised_iff s).mp h
  unfold State.mwaitCheck
  rw [if_neg h1, if_neg (by simp [h2]), if_neg h3]
  by_cases hr : s.extReservedSet = true <;> simp [hr]

/-- All checks pass exactly when no cause is raised. -/
theorem mwaitCheck_eq_none {s : State} :
    s.mwaitCheck = none ↔ s.Recognised ∧ s.ExtensionReservedClear ∧ s.ExtensionSupported := by
  by_cases h : s.Recognised
  · rw [mwaitCheck_recognised h, reservedClear_iff]
    simp only [State.ExtensionSupported, extIntBrk_eq, h, true_and]
    cases s.extReservedSet <;> cases s.params.cpuid05IntBrk <;> simp
  · simp [mwaitCheck_ud h, h]

/-- The causes the checks can give (40_mwait.md R106). -/
theorem mwaitCheck_causes {s : State} {c : Cause} (h : s.mwaitCheck = some c) :
    c = .ud ∨ c = gpCause s.mode := by
  by_cases hr : s.Recognised
  · rw [mwaitCheck_recognised hr] at h
    split at h
    · right; simpa using h.symm
    · cases h
  · rw [mwaitCheck_ud hr] at h; left; simpa using h.symm

/-- What MWAIT does when it gives a next state: it raises, falls through, or leaves the choice. -/
theorem execMwait_next {s t : State} (h : execMwait s = .next t) :
    s.params.guest = false ∧
    ((∃ c, s.mwaitCheck = some c ∧ t = s.deliver c s.ip) ∨
     (∃ n, s.mwaitCheck = none ∧ nextIp s.pointerBits s.ip 3 = some n ∧ t = s.mwaitIssue n)) := by
  unfold execMwait at h
  split at h
  · cases h
  · rename_i hg
    refine ⟨by simpa using hg, ?_⟩
    split at h
    · rename_i c hc; cases h; exact .inl ⟨c, hc, rfl⟩
    · rename_i hc
      split at h
      · cases h
      · rename_i n hn; cases h; exact .inr ⟨n, hc, hn, rfl⟩

/-- A raising MWAIT. -/
theorem execMwait_raises {s : State} {c : Cause} (hg : s.params.guest = false) (h : s.mwaitCheck = some c) :
    execMwait s = .next (s.deliver c s.ip) := by
  simp [execMwait, hg, h]

/-- An MWAIT that passes its checks. -/
theorem execMwait_passes {s : State} {n : Word64} (hp : s.PassesMwaitChecks) (hn : nextIp s.pointerBits s.ip 3 = some n) :
    execMwait s = .next (s.mwaitIssue n) := by
  have hc := mwaitCheck_eq_none.mpr ⟨hp.recognised, hp.reservedClear, hp.supported⟩
  simp [execMwait, hp.notGuest, hc, hn]

/-- What MONITOR does when it gives a next state. -/
theorem execMonitor_next {s t : State} (h : execMonitor s = .next t) :
    s.ecx = 0 ∧ s.edx = 0 ∧ ∃ n, nextIp s.pointerBits s.ip 3 = some n ∧
      t = { s with
        mon := monitorOutcome (Config.monitorArms s.draws) s.monitorAddress
        ip := n
        draws := s.draws + 1 } := by
  unfold execMonitor at h
  split at h
  · rename_i hz
    split at h
    · cases h
    · rename_i n hn; cases h; exact ⟨hz.1, hz.2, n, hn, rfl⟩
  · cases h

/-- No pointer is wider than the 64 bits `ip` is held in. -/
theorem pointerBits_le (s : State) : s.pointerBits ≤ 64 := by
  unfold State.pointerBits PointerWidths.bits
  split <;> exact Nat.le_of_lt_succ (Fin.is_lt _)

/-- `NextIP` where it fits. -/
theorem nextIp_eq_some {bits : Nat} (hb : bits ≤ 64) {ip n : Word64} {k : Nat} :
    nextIp bits ip k = some n ↔ ip.toNat + k < 2 ^ bits ∧ n.toNat = ip.toNat + k := by
  have hp : 2 ^ bits ≤ 2 ^ 64 := Nat.pow_le_pow_right (by decide) hb
  unfold nextIp
  split
  · rename_i h
    simp only [Option.some.injEq, h, true_and, ← BitVec.toNat_inj, BitVec.toNat_ofNat]
    rw [Nat.mod_eq_of_lt (by omega)]
    exact eq_comm
  · rename_i h; simp [h]

/-- `NextIP` where it does not fit. -/
theorem nextIp_eq_none {bits : Nat} {ip : Word64} {k : Nat} :
    nextIp bits ip k = none ↔ 2 ^ bits ≤ ip.toNat + k := by
  unfold nextIp
  split <;> simp <;> omega

end Sys2Proof.Machine
end

