-- ==== Sys2Proof/Laws/Memory.lean ====
section
/-! SUPPORT. The laws of memory: what a read gives after a write, and that every write keeps the canonical form. -/

namespace Sys2Proof.Machine

@[simp] theorem Memory.read_nil (a : Nat) : Memory.read [] a = none := rfl

/-- A read after a write of one byte. -/
theorem Memory.read_write (m : Memory) (a a' : Nat) (b : Byte) :
    (m.write a b).read a' = if a' = a then some b else m.read a' := by
  induction m with
  | nil => simp [Memory.write, Memory.read]
  | cons c m ih =>
    obtain ⟨k, v⟩ := c
    simp only [Memory.write]
    split
    · simp [Memory.read]
    · split
      · subst a; by_cases h : a' = k <;> simp [Memory.read, h]
      · by_cases h : a' = k
        · subst h; simp [Memory.read]; omega
        · simp only [Memory.read, h, if_false]; exact ih

/-- Where the address of a cell of a written memory comes from. -/
theorem Memory.mem_write_key {m : Memory} {a : Nat} {b : Byte} {c : Host.Cell} (h : c ∈ m.write a b) :
    c.1 = a ∨ c ∈ m := by
  induction m with
  | nil => simp [Memory.write] at h; simp [h]
  | cons d m ih =>
    obtain ⟨k, v⟩ := d
    simp only [Memory.write] at h
    split at h
    · rcases List.mem_cons.mp h with h | h
      · simp [h]
      · exact .inr h
    · split at h
      · rcases List.mem_cons.mp h with h | h
        · simp [h]
        · exact .inr (List.mem_cons_of_mem _ h)
      · rcases List.mem_cons.mp h with h | h
        · simp [h]
        · rcases ih h with h | h
          · exact .inl h
          · exact .inr (List.mem_cons_of_mem _ h)

/-- Writing a byte keeps the canonical form. -/
theorem Memory.write_wf (m : Memory) (a : Nat) (b : Byte) (hm : m.wf) : (m.write a b).wf := by
  induction m with
  | nil => simp [Memory.write, Memory.wf]
  | cons d m ih =>
    obtain ⟨k, v⟩ := d
    obtain ⟨hk, hm'⟩ := List.pairwise_cons.mp hm
    simp only [Memory.write]
    split
    · rename_i hlt
      refine List.pairwise_cons.mpr ⟨?_, hm⟩
      intro c hc
      rcases List.mem_cons.mp hc with rfl | hc
      · exact hlt
      · exact lt_trans hlt (hk c hc)
    · split
      · subst a; exact List.pairwise_cons.mpr ⟨hk, hm'⟩
      · refine List.pairwise_cons.mpr ⟨?_, ih hm'⟩
        intro c hc
        rcases Memory.mem_write_key hc with h | h
        · simp only [h]; omega
        · exact hk c h

/-- Writing bytes keeps the canonical form. -/
theorem Memory.writeBytes_wf (bs : List Byte) (m : Memory) (a : Nat) (hm : m.wf) : (m.writeBytes a bs).wf := by
  induction bs generalizing m a with
  | nil => exact hm
  | cons b bs ih => exact ih _ _ (Memory.write_wf m a b hm)

/-- Writing cells keeps the canonical form. -/
theorem Memory.writeCells_wf (cs : List Host.Cell) (m : Memory) (hm : m.wf) : (m.writeCells cs).wf := by
  induction cs generalizing m with
  | nil => exact hm
  | cons c cs ih => exact ih _ (Memory.write_wf m c.1 c.2 hm)

/-- A read after a write of bytes. -/
theorem Memory.read_writeBytes (bs : List Byte) (m : Memory) (a a' : Nat) :
    (m.writeBytes a bs).read a' = if a ≤ a' ∧ a' < a + bs.length then bs[a' - a]? else m.read a' := by
  induction bs generalizing m a with
  | nil => simp [Memory.writeBytes]
  | cons b bs ih =>
    rw [Memory.writeBytes, ih, Memory.read_write]
    by_cases h : a' = a
    · subst h; simp
    · by_cases h2 : a ≤ a' ∧ a' < a + (b :: bs).length
      · obtain ⟨k, rfl⟩ : ∃ k, a' = a + 1 + k := ⟨a' - (a + 1), by omega⟩
        simp only [List.length_cons] at h2
        rw [if_pos (by omega), if_pos (by simp; omega)]
        have e : a + 1 + k - a = k + 1 := by omega
        simp [e]
      · rw [if_neg (by simp at h2; omega), if_neg h, if_neg h2]

/-- Writing bytes leaves every address outside them as it was, in any memory. -/
theorem Memory.read_writeBytes_other (bs : List Byte) (m : Memory) {a a' : Nat}
    (h : a' < a ∨ a + bs.length ≤ a') : (m.writeBytes a bs).read a' = m.read a' := by
  induction bs generalizing m a with
  | nil => rfl
  | cons b bs ih =>
    simp only [List.length_cons] at h
    rw [Memory.writeBytes, ih _ (by omega), Memory.read_write, if_neg (by omega)]

/-- Writing cells leaves every address none of them has as it was. -/
theorem Memory.read_writeCells_other (cs : List Host.Cell) (m : Memory) {a : Nat} (h : a ∉ cs.map Prod.fst) :
    (m.writeCells cs).read a = m.read a := by
  induction cs generalizing m with
  | nil => rfl
  | cons c cs ih =>
    simp only [List.map_cons, List.mem_cons, not_or] at h
    rw [Memory.writeCells, ih _ h.2, Memory.read_write, if_neg h.1]

/-- Reading a window: the byte at a position inside it. -/
theorem Memory.window_eq_cons {m : Memory} {a n : Nat} {b : Byte} (h : m.read a = some b) :
    m.window a (n + 1) = b :: m.window (a + 1) n := by
  simp [Memory.window, h]

/-- The window ends at the first address that nothing has written. -/
theorem Memory.window_length_of_none {m : Memory} {a n l : Nat} (hl : n < l) (hn : m.read (a + n) = none)
    (hk : ∀ k < n, m.read (a + k) ≠ none) : (m.window a l).length = n := by
  induction n generalizing a l with
  | zero =>
    obtain ⟨l, rfl⟩ := Nat.exists_eq_succ_of_ne_zero (Nat.ne_of_gt hl)
    simp [Memory.window, (by simpa using hn : m.read a = none)]
  | succ n ih =>
    obtain ⟨l, rfl⟩ := Nat.exists_eq_succ_of_ne_zero (Nat.ne_of_gt (Nat.zero_lt_of_lt hl))
    obtain ⟨b, hb⟩ := Option.ne_none_iff_exists'.mp (hk 0 (Nat.succ_pos n))
    rw [Nat.succ_eq_add_one, Memory.window_eq_cons (by simpa using hb), List.length_cons,
      ih (by omega) (by rw [← hn]; congr 1; omega)
        (fun k h => by have := hk (k + 1) (by omega); rwa [show a + 1 + k = a + (k + 1) by omega])]

/-- The window is full where every address has been written. -/
theorem Memory.window_length_of_full {m : Memory} {a l : Nat} (hk : ∀ k < l, m.read (a + k) ≠ none) :
    (m.window a l).length = l := by
  induction l generalizing a with
  | zero => rfl
  | succ l ih =>
    obtain ⟨b, hb⟩ := Option.ne_none_iff_exists'.mp (hk 0 (Nat.succ_pos l))
    rw [Memory.window_eq_cons (by simpa using hb), List.length_cons,
      ih (fun k h => by have := hk (k + 1) (by omega); rwa [show a + 1 + k = a + (k + 1) by omega])]

/-- The addresses noted are those noted before and the new ones. -/
theorem mem_noteStored (addrs l : List Nat) (a : Nat) : a ∈ noteStored l addrs ↔ a ∈ l ∨ a ∈ addrs := by
  induction addrs generalizing l with
  | nil => simp [noteStored]
  | cons x xs ih =>
    have e : noteStored l (x :: xs) = noteStored (l.insert x) xs := rfl
    rw [e, ih, List.mem_insert_iff, List.mem_cons]
    tauto

/-- `eventSet` repeats nothing. -/
theorem eventSet_nodup (es : List Event) : (eventSet es).Nodup := by
  have : ∀ (es l : List Event), l.Nodup → (es.foldl (fun l e => l.insert e) l).Nodup := by
    intro es
    induction es with
    | nil => intro l h; exact h
    | cons e es ih => intro l h; exact ih _ (h.insert)
  exact this es [] List.nodup_nil

end Sys2Proof.Machine
end

