-- ==== Sys2Proof/Laws/Decoding.lean ====
section
/-! SUPPORT. The decoder and the encoder, and what the fetch sees. -/

namespace Sys2Proof

@[simp] theorem encode_length (i : Instr) : (encode i).length = 3 := by cases i <;> rfl

/-- What the decoder's byte match reads is exactly an encoding and what follows it. -/
theorem matchBytes_eq_some {bs : List Byte} {i : Instr} {rest : List Byte} :
    matchBytes bs = some (i, rest) ↔ bs = encode i ++ rest := by
  constructor
  · intro h
    unfold matchBytes at h
    split at h
    · split at h
      · rename_i b0 b1 b2 r hb
        obtain ⟨rfl, rfl⟩ := hb
        split at h
        · subst b2; cases h; rfl
        · split at h
          · subst b2; cases h; rfl
          · cases h
      · cases h
    · cases h
  · rintro rfl; cases i <;> rfl

/-- The decoder answers an instruction exactly on its encoding, in every mode. -/
theorem decode_eq_ok {m : Mode} {bs : List Byte} {i : Instr} {rest : List Byte} :
    decode m bs = .ok (i, rest) ↔ bs = encode i ++ rest := by
  rw [← matchBytes_eq_some]
  unfold decode
  cases matchBytes bs with
  | none => simp
  | some r => simp

/-- The decoder's only answers: an encoding, or the name of a refusal. -/
theorem decode_of_not_encoding {m : Mode} {bs : List Byte} (h : ∀ i rest, bs ≠ encode i ++ rest) :
    decode m bs = .error (classify m bs) := by
  unfold decode
  cases hm : matchBytes bs with
  | none => rfl
  | some r => exact absurd (matchBytes_eq_some.mp hm) (h r.1 r.2)

namespace Machine

/-- Three readable bytes at `ip` are the first three the fetch sees. -/
theorem fetchBytes_of_read {s : State} {b0 b1 b2 : Byte} (h0 : s.mem.read s.ip.toNat = some b0)
    (h1 : s.mem.read (s.ip.toNat + 1) = some b1) (h2 : s.mem.read (s.ip.toNat + 2) = some b2) :
    ∃ rest, s.fetchBytes = b0 :: b1 :: b2 :: rest := by
  refine ⟨s.mem.window (s.ip.toNat + 1 + 1 + 1) 12, ?_⟩
  show s.mem.window s.ip.toNat (12 + 1 + 1 + 1) = _
  rw [Memory.window_eq_cons h0, Memory.window_eq_cons h1, Memory.window_eq_cons h2]

/-- The fetch sees an instruction whose bytes stand at `ip`. -/
theorem fetchBytes_of_encode {s : State} {i : Instr}
    (h : ∀ k < 3, s.mem.read (s.ip.toNat + k) = (encode i)[k]?) :
    ∃ rest, s.fetchBytes = encode i ++ rest := by
  have h0 := h 0 (by decide)
  have h1 := h 1 (by decide)
  have h2 := h 2 (by decide)
  cases i <;> exact fetchBytes_of_read h0 h1 h2

/-- The fetch of an unmodified instruction executes it. -/
theorem fetchExec_of_encode {s : State} {i : Instr}
    (h : ∀ k < 3, s.mem.read (s.ip.toNat + k) = (encode i)[k]?)
    (hs : ∀ k < 3, s.ip.toNat + k ∉ s.stored) : s.fetchExec = exec i s := by
  obtain ⟨rest, hr⟩ := fetchBytes_of_encode h
  unfold State.fetchExec
  rw [decode_eq_ok.mpr hr]
  dsimp only
  have : s.textModified (encode i).length = false := by
    simp only [State.textModified, encode_length, List.any_eq_false, List.mem_range]
    intro k hk; simpa using hs k hk
  rw [this]; rfl

/-- Where the fetch gives a next state, it executed an instruction that stands at `ip`. -/
theorem fetchExec_next {s t : State} (h : s.fetchExec = .next t) :
    ∃ i rest, decode s.mode s.fetchBytes = .ok (i, rest) ∧ exec i s = .next t := by
  unfold State.fetchExec at h
  split at h
  · rename_i i rest hd
    split at h
    · cases h
    · exact ⟨i, rest, hd, h⟩
  · split at h <;> cases h
  · cases h
  · cases h

end Machine

end Sys2Proof
end

