-- ==== Sys2Proof/Laws/PerInstr.lean ====
section
/-! SUPPORT. What holds of every instruction as syntax, one lemma per constructor. -/

namespace Sys2Proof.Laws.ThreeBytes

/-- The instruction is well formed and has three bytes, none of them a register number, and its row of the opcode table
decodes to it (30_encoding.md R60, R61, R122). -/
def Statement (i : Instr) : Prop :=
  i.wellFormed = true ∧ (encode i).length = longestInstr ∧
    ∃ w, decodeTableWord 24 w = some i ∧ tableBytes 24 w = encode i

theorem mwait : Statement .mwait := ⟨rfl, rfl, 0x0F01C9, by decide, by decide⟩

theorem monitor : Statement .monitor := ⟨rfl, rfl, 0x0F01C8, by decide, by decide⟩

end Sys2Proof.Laws.ThreeBytes
end

