-- ==== Sys2Proof/Laws/Turns.lean ====
section
/-! SUPPORT. What a step can do: one inversion lemma for the step and one for each turn that has cases. -/

namespace Sys2Proof.Machine

/-- A step that gives a next state is a turn of a processor that is no guest and not past BINIT#. -/
theorem step_next {s t : State} (h : step s = .next t) :
    s.params.guest = false ∧ s.pastBinit = false ∧ s.afterTurn.turn s.nextTurn = .next t := by
  unfold step at h
  split at h
  · cases h
  · rename_i hg
    split at h
    · cases h
    · rename_i hb; exact ⟨by simpa using hg, by simpa using hb, h⟩

/-- A step is its turn. -/
theorem step_eq_turn {s : State} (hg : s.params.guest = false) (hb : s.pastBinit = false) :
    step s = s.afterTurn.turn s.nextTurn := by
  simp [step, hg, hb, State.afterTurn]

/-- A waiting processor is not past BINIT#. -/
theorem pastBinit_waiting {s : State} {h : Word32} {e : Bool} {n : Word64} (hr : s.run = .waiting h e n) :
    s.pastBinit = false := by simp [State.pastBinit, hr]

/-- An executing processor is not past BINIT# unless it is pending. -/
theorem pastBinit_notPending {s : State} (hb : Event.binit ∉ s.pending) : s.pastBinit = false := by
  simp [State.pastBinit, hb]

/-- The processor's turn while it waits. -/
theorem coreTurn_waiting {s : State} {h : Word32} {e : Bool} {n : Word64} (hr : s.run = .waiting h e n) :
    s.coreTurn = .next (if s.duty then s.complete n else s) := by
  unfold State.coreTurn; rw [hr]

/-- The processor's turn while it executes. -/
theorem coreTurn_executing {s : State} (hr : s.run = .executing) : s.coreTurn = s.fetchExec := by
  unfold State.coreTurn; rw [hr]

/-- What the delivery turn does when it gives a next state. -/
theorem deliverTurn_next {s t : State} {e : Event} (h : s.deliverTurn e = .next t) :
    t = s ∨ (s.run = .executing ∧ e ∈ s.pending ∧
      (t = s.start .init (Config.initValues s.draws) ∨ t = s.start .reset (Config.resetValues s.draws) ∨
        t = { s with pending := s.pending.erase e }.deliver (.event e) s.ip)) := by
  unfold State.deliverTurn at h
  split at h
  · rename_i hc
    refine .inr ⟨hc.1, hc.2.1, ?_⟩
    cases e <;> simp only [State.deliverEvent] at h <;> cases h <;> simp
  · left; cases h; rfl

/-- What the return turn does. -/
theorem returnTurn_cases (s : State) :
    s.returnTurn = s ∨ ∃ f rest, s.run = .executing ∧ s.frames = f :: rest ∧ s.returnTurn = s.handlerReturn f rest := by
  unfold State.returnTurn
  split
  · rename_i f rest hr hf; exact .inr ⟨f, rest, hr, hf, rfl⟩
  · exact .inl rfl
  · exact .inl rfl

/-- Whether a store hits the armed range. -/
theorem hitBy_armed {range : List Nat} {addr n : Nat} :
    (Monitor.armed range).hitBy addr n = true ↔ StoreHits range addr n := by
  simp [Monitor.hitBy, StoreHits]

/-- Only waiting has a duty. -/
theorem duty_executing {s : State} (hr : s.run = .executing) : s.duty = false := by
  simp [State.duty, hr]

/-- The duty of a waiting processor. -/
theorem duty_waiting {s : State} {h : Word32} {e : Bool} {n : Word64} (hr : s.run = .waiting h e n) :
    s.duty = true ↔ s.mon = .idle ∨ ∃ v ∈ s.pending, s.breaksWait e v = true := by
  simp [State.duty, hr]

/-- A run of one step more, where that step gives a next state. -/
theorem run_succ {s t : State} (h : step s = .next t) (k : Nat) :
    Sys2Proof.core.run (k + 1) s = Sys2Proof.core.run k t := by
  have h' : Sys2Proof.core.step s = .next t := h
  simp only [Host.Core.run, h']

/-- The schedule's next turn and the rest after a turn is put in front. -/
theorem nextTurn_cons (s : State) (t : Turn) (ts : List Turn) : { s with turns := t :: ts }.nextTurn = t := rfl

end Sys2Proof.Machine
end

