-- ==== Sys2Proof/Tests/Slice0.lean ====
section
/-! SUPPORT. The decode tests, a few single steps whose results come from 95_test_vectors.md, and for each statement
with hypotheses a state that meets them. No witness depends on a free value. -/

namespace Sys2Proof.Tests

open Sys2Proof Sys2Proof.Machine

/-! ### Encoding, from spec/opcode_table.json's bit strings -/

theorem test_decode_mwait_bits : decode .real [0b00001111, 0b00000001, 0b11001001] = .ok (.mwait, []) := by decide

theorem test_decode_monitor_bits : decode .real [0b00001111, 0b00000001, 0b11001000] = .ok (.monitor, []) := by decide

theorem test_table_word_mwait : decodeTableWord 24 0b000011110000000111001001 = some .mwait := by decide

theorem test_table_word_monitor : decodeTableWord 24 0b000011110000000111001000 = some .monitor := by decide

/-- The bytes in the opposite order are neither (30_encoding.md R60, R64). -/
theorem test_reversed_bytes_refused : decode .protectedMode [0xC9, 0x01, 0x0F] = .error .outsideSpec := by decide

/-- 48H is a REX prefix in 64-bit mode only (30_encoding.md R65). -/
theorem test_rex_only_in_long64 :
    decode .long64 [0x48, 0x0F, 0x01, 0xC9] = .error .prefixed
      ∧ decode .protectedMode [0x48, 0x0F, 0x01, 0xC9] = .error .outsideSpec := by decide

/-! ### Well-formedness: an instruction has no field, so there is nothing to refuse in one; the memory form has -/

theorem test_wellFormed : Instr.mwait.wellFormed = true ∧ Instr.monitor.wellFormed = true := by decide

theorem test_memory_out_of_order_refused : ¬ Memory.wf [(2, 0x00), (1, 0x00)] := by decide

theorem test_memory_repeat_refused : ¬ Memory.wf [(1, 0x00), (1, 0x01)] := by decide

/-! ### States -/

/-- The common start of group B of 95_test_vectors.md. -/
def base : State := { State.reset with ip := 0x1000, mode := .protectedMode, intFlag := true }

/-- The common start of group D with the monitor armed. -/
def ready : State := { base with mon := .armed [0x2000] }

/-- The wait of group D: `Waiting(hint, ext, 0x1003)` with the range armed. -/
def sleeping (hint : Word32) (ext : Bool) : State :=
  { ready with
    rax := hint.zeroExtend 64
    rcx := if ext then 1 else 0
    run := .waiting hint ext 0x1003 }

/-- A state with bytes loaded at `ip`. -/
def loaded (bytes : List Byte) : State := { base with mem := Memory.writeBytes [] 0x1000 bytes }

/-! ### Single steps -/

/-- Vector B31. -/
theorem test_mwait_ignores_eax :
    (nextOf (exec .mwait { base with rax := 0xFFFFFFFF })).map (fun t => (t.ip, t.run, t.mon))
      = some (0x1003, .executing, .idle) := by decide

/-- Vector D19: the fault leaves the monitor armed and records the address of the MWAIT. -/
theorem test_mwait_gp_keeps_arming :
    (nextOf (exec .mwait { ready with rcx := 2 })).map (fun t => (t.frames, t.mon))
      = some ([⟨.gp (some 0), 0x1000⟩], .armed [0x2000]) := by decide

/-- Program P1, its first step. -/
theorem test_monitor_advances :
    (nextOf (exec .monitor { base with rax := 0x2000 })).map (fun t => (t.ip, t.rax, t.run))
      = some (0x1003, 0x2000, .executing) := by decide

/-- 41_monitor_companion.md R121. -/
theorem test_monitor_refuses_edx : exec .monitor { base with edx := 1 } = .refused .monitorOperands := rfl

/-- Both rows of the table run as the first instruction after reset. -/
theorem test_first_instruction :
    (nextOf (step (State.reset.withFetchWord 24 0x0F01C9))).map (fun t => t.ip) = some 0xFFF3
      ∧ (nextOf (step (State.reset.withFetchWord 24 0x0F01C8))).map (fun t => t.ip) = some 0xFFF3 := by decide

/-- With nothing loaded the fetch finds no byte (log 37). -/
theorem test_reset_lists_no_program : step State.reset = .fault (.fetchUnwritten 0xFFF0) := rfl

/-! ### Facts the witnesses share -/

theorem base_recognised : base.Recognised := ⟨by decide, by decide, by decide⟩

theorem passes {s : State} (hg : s.params.guest = false) (h : s.mwaitCheck = none) : s.PassesMwaitChecks := by
  obtain ⟨hr, hc, hs⟩ := mwaitCheck_eq_none.mp h
  exact ⟨hg, hr, hc, hs⟩

theorem base_passes : base.PassesMwaitChecks := passes (by decide) (by decide)

theorem ready_passes : ready.PassesMwaitChecks := passes (by decide) (by decide)

theorem base_fits : base.NextIpFits := by unfold State.NextIpFits; decide

theorem ready_fits : ready.NextIpFits := by unfold State.NextIpFits; decide

theorem hits_first : StoreHits [0x2000] 0x2000 1 := ⟨0x2000, by decide, by decide, by decide⟩

/-- The last byte of a store counts (20_memory.md R44). -/
theorem hits_last : StoreHits [0x2000] 0x1FFF 2 := ⟨0x2000, by decide, by decide, by decide⟩

theorem misses_below : ¬ StoreHits [0x2000] 0x1FFF 1 := by
  rintro ⟨a, ha, h1, h2⟩
  simp at ha
  omega

theorem misses_above : ¬ StoreHits [0x2000] 0x2001 1 := by
  rintro ⟨a, ha, h1, h2⟩
  simp at ha
  omega

/-! ### Witnesses: encoding and the step -/

theorem witness_DecodeAndEncodeAgree :
    Instr.mwait.wellFormed = true ∧ Instr.monitor.wellFormed = true
      ∧ decode .compatibility [0x0F, 0x01, 0xC9, 0x00] = .ok (.mwait, [0x00]) := by decide

theorem witness_PrefixedFormsAreRefusedByName :
    (0x66 : Byte) ∈ ([0x66, 0x67, 0xF2, 0xF3, 0xF0] : List Byte)
      ∧ (0xF0 : Byte) ∈ ([0x66, 0x67, 0xF2, 0xF3, 0xF0] : List Byte)
      ∧ 0x40 ≤ (0x40 : Byte).toNat ∧ (0x4F : Byte).toNat ≤ 0x4F
      ∧ (∀ p ∈ ([0x66, 0x4F] : List Byte), isPrefixByte .long64 p = true) := by decide

theorem witness_StepRunsTheDecodedInstruction :
    (loaded [0x0F, 0x01, 0xC9]).AboutToExecute .mwait ∧ (loaded [0x0F, 0x01, 0xC8]).AboutToExecute .monitor :=
  ⟨⟨by decide, by decide, by decide, by decide, by decide, by decide⟩,
    ⟨by decide, by decide, by decide, by decide, by decide, by decide⟩⟩

theorem witness_StepRefusesWhatIsNoInstruction :
    (loaded []).run = .executing ∧ (loaded []).nextTurn = .core ∧ (loaded []).params.guest = false
      ∧ Event.binit ∉ (loaded []).pending
      ∧ decode base.mode (loaded [0x66, 0x0F, 0x01, 0xC9]).fetchBytes = .error .prefixed
      ∧ decode base.mode (loaded [0x0F, 0x01, 0xCA]).fetchBytes = .error .outsideSpec := by decide

/-- Vector A5, with the unwritten byte as early and as late as can be, and a window full of prefix bytes. -/
theorem witness_StepRefusesWhatIsNoInstruction_incomplete :
    (∀ bs ∈ ([[], [0x0F, 0x01], List.replicate 14 0x66] : List (List Byte)),
      decode base.mode (loaded bs).fetchBytes = .error .incomplete ∧ bs.length < 15
        ∧ (loaded bs).mem.read ((loaded bs).ip.toNat + bs.length) = none
        ∧ ∀ k < bs.length, (loaded bs).mem.read ((loaded bs).ip.toNat + k) ≠ none)
    ∧ decode base.mode (loaded (List.replicate 15 0x66)).fetchBytes = .error .incomplete
    ∧ ∀ k < 15, (loaded (List.replicate 15 0x66)).mem.read (0x1000 + k) ≠ none := by decide

theorem witness_ModifiedProgramTextIsRefused :
    let s := { loaded [0x0F, 0x01, 0xC9] with stored := [0x1002] };
    s.run = .executing ∧ s.nextTurn = .core ∧ s.params.guest = false ∧ Event.binit ∉ s.pending
      ∧ (∀ k < 3, s.mem.read (s.ip.toNat + k) = (encode .mwait)[k]?)
      ∧ (∃ k < 3, s.ip.toNat + k ∈ s.stored) := by decide

theorem witness_GuestIsRefused : { base with params := { base.params with guest := true } }.params.guest = true := by
  decide

/-! ### Witnesses: the checks -/

theorem witness_VirtualModeRaisesInvalidOpcode :
    { base with mode := .virtual8086, cpl := 3 }.params.guest = false
      ∧ { base with mode := .virtual8086, cpl := 3 }.mode = .virtual8086 := by decide

theorem witness_FeatureBitClearRaisesInvalidOpcode :
    { base with miscEnableMonitor := false }.params.guest = false
      ∧ { base with miscEnableMonitor := false }.miscEnableMonitor = false
      ∧ { base with params := { base.params with hardwareHasMonitor := false } }.params.guest = false
      ∧ { base with params := { base.params with hardwareHasMonitor := false } }.params.hardwareHasMonitor = false := by
  decide

/-- Levels 1 and 3 for the first clause (B4, B21, B29); for the second the last address whose successor fits. -/
theorem witness_PrivilegeIsCheckedExceptInRealMode :
    (∀ m ∈ [Mode.protectedMode, .compatibility, .long64], ∀ l ∈ ([1, 3] : List (Fin 4)),
      { base with mode := m, cpl := l }.params.guest = false
        ∧ { base with mode := m, cpl := l }.mode ∈ [Mode.protectedMode, .compatibility, .long64]
        ∧ { base with mode := m, cpl := l }.cpl ≠ 0)
    ∧ { base with mode := .real, ip := 0xFFFC }.mode = .real
    ∧ { base with mode := .real, ip := 0xFFFC }.PassesMwaitChecks
    ∧ { base with mode := .real, ip := 0xFFFC }.NextIpFits :=
  ⟨by decide, by decide, passes (by decide) (by decide), by unfold State.NextIpFits; decide⟩

/-- Vectors B6, B8 with the top bit, B14, B22; in the second clause only a bit above bit 31 differs (P2b). -/
theorem witness_ReservedEcxBitsRaiseGp :
    (∀ r ∈ ([2, 0x80000000, 0xFFFFFFFE] : List Word64), ∀ m ∈ [Mode.real, .protectedMode, .compatibility],
      { base with mode := m, rcx := r }.params.guest = false
        ∧ { base with mode := m, rcx := r }.Recognised
        ∧ { base with mode := m, rcx := r }.mode ≠ .long64
        ∧ 2 ≤ { base with mode := m, rcx := r }.rcx.toNat % 2 ^ 32)
    ∧ base.mode ≠ .long64 ∧ (0x100000000 : Word64).toNat % 2 ^ 32 = base.rcx.toNat % 2 ^ 32 := by
  refine ⟨fun r hr m hm => ?_, by decide, by decide⟩
  simp only [List.mem_cons, List.not_mem_nil, or_false] at hr hm
  obtain rfl | rfl | rfl := hm <;> obtain rfl | rfl | rfl := hr <;>
    exact ⟨by decide, ⟨by decide, by decide, by decide⟩, by decide, by decide⟩

/-- Vectors B24, B26, and the least value that faults. -/
theorem witness_ReservedRcxBitsRaiseGp :
    { base with mode := .long64 }.params.guest = false ∧ { base with mode := .long64 }.Recognised
      ∧ { base with mode := .long64, rcx := 0x100000000 }.Recognised
      ∧ 2 ≤ { base with mode := .long64, rcx := 0x100000000 }.rcx.toNat
      ∧ { base with mode := .long64, rcx := 2 }.Recognised ∧ 2 ≤ { base with mode := .long64, rcx := 2 }.rcx.toNat
      ∧ { base with mode := .long64, rcx := 1 }.Recognised
      ∧ { base with mode := .long64, rcx := 1 }.rcx.toNat = 1
      ∧ { base with mode := .long64, rcx := 1 }.params.cpuid05IntBrk = true :=
  ⟨by decide, ⟨by decide, by decide, by decide⟩, ⟨by decide, by decide, by decide⟩, by decide,
    ⟨by decide, by decide, by decide⟩, by decide, ⟨by decide, by decide, by decide⟩, by decide, by decide⟩

/-- Vectors B9, B15, B27. -/
theorem witness_IntBreakWithoutSupportRaisesGp :
    ∀ m ∈ [Mode.real, .protectedMode, .long64],
      let s := { base with mode := m, rcx := 1, params := { base.params with cpuid05IntBrk := false } };
      s.params.guest = false ∧ s.Recognised ∧ s.rcx.toNat % 2 = 1 ∧ s.params.cpuid05IntBrk = false := by
  intro m hm
  simp only [List.mem_cons, List.not_mem_nil, or_false] at hm
  obtain rfl | rfl | rfl := hm <;> exact ⟨by decide, ⟨by decide, by decide, by decide⟩, by decide, by decide⟩

/-- Vectors B12 and B6. -/
theorem witness_InvalidOpcodePrecedesGp :
    { base with cpl := 3, rcx := 2 }.params.guest = false ∧ ¬ { base with cpl := 3, rcx := 2 }.Recognised
      ∧ { base with rcx := 2 }.params.guest = false ∧ { base with rcx := 2 }.Recognised
      ∧ ¬ ({ base with rcx := 2 }.ExtensionReservedClear ∧ { base with rcx := 2 }.ExtensionSupported) :=
  ⟨by decide, fun h => absurd h.level (by decide), by decide, ⟨by decide, by decide, by decide⟩,
    fun h => absurd (h.1.2 (by decide)) (by decide)⟩

/-- One state for each of the four outcomes. -/
theorem witness_MwaitRaisesOnlyUdAndGp :
    ∀ s ∈ [base, { base with cpl := 1 }, { base with mode := .real, rcx := 2 }, { base with rcx := 2 }],
      ∃ t, exec .mwait s = .next t := by
  intro s hs
  simp only [List.mem_cons, List.not_mem_nil, or_false] at hs
  obtain rfl | rfl | rfl | rfl := hs <;> exact ⟨_, rfl⟩

/-! ### Witnesses: to wait or not -/

theorem witness_EaxIsOnlyRecorded :
    base.run = .executing ∧ ∃ t, exec .mwait base = .next t ∧ t.frames = base.frames := ⟨by decide, _, rfl, by decide⟩

theorem witness_IdleMonitorFallsThrough :
    base.run = .executing ∧ base.PassesMwaitChecks ∧ base.NextIpFits ∧ base.mon = .idle :=
  ⟨by decide, base_passes, base_fits, by decide⟩

theorem witness_ArmedMonitorLeavesTheChoice :
    ready.run = .executing ∧ ready.PassesMwaitChecks ∧ ready.NextIpFits ∧ ready.mon = .armed [0x2000] :=
  ⟨by decide, ready_passes, ready_fits, by decide⟩

/-- A completed MWAIT, after which another completes, and a fault with the monitor armed (D17, D19). -/
theorem witness_MwaitConsumesTheArming :
    (base.run = .executing ∧ ∃ t, exec .mwait base = .next t ∧ t.frames = base.frames ∧ t.run = .executing
      ∧ ∃ u, exec .mwait t = .next u)
    ∧ ∃ t, exec .mwait { ready with rcx := 2 } = .next t ∧ t.frames ≠ { ready with rcx := 2 }.frames :=
  ⟨⟨by decide, _, rfl, by decide, by decide, _, rfl⟩, _, rfl, by simp [ready, base, State.reset]⟩

theorem witness_MwaitWritesNothingElse : ∃ t, exec .mwait base = .next t ∧ t.frames = base.frames :=
  ⟨_, rfl, by decide⟩

theorem witness_FaultingMwaitChangesOnlyByDelivery :
    ∃ t, exec .mwait { base with cpl := 1 } = .next t ∧ t.frames ≠ { base with cpl := 1 }.frames :=
  ⟨_, rfl, by simp [base, State.reset]⟩

/-- The first address whose successor does not fit, in real-address mode and in protected mode with a 16-bit pointer, whose
last address that fits is one less. -/
theorem witness_NoStepWhereNextIpDoesNotFit :
    let widths := { base.params.pointerWidths with protectedMode := 16 };
    let s := { base with params := { base.params with pointerWidths := widths }, ip := 0xFFFD };
    (∀ m ∈ [Mode.real, .protectedMode],
      ¬ { s with mode := m }.NextIpFits ∧ { s with mode := m }.PassesMwaitChecks
        ∧ { s with mode := m }.ecx = 0 ∧ { s with mode := m }.edx = 0)
    ∧ { s with ip := 0xFFFC }.NextIpFits := by
  refine ⟨fun m hm => ?_, by unfold State.NextIpFits; decide⟩
  simp only [List.mem_cons, List.not_mem_nil, or_false] at hm
  obtain rfl | rfl := hm <;>
    exact ⟨by unfold State.NextIpFits; decide, passes (by decide) (by decide), by decide, by decide⟩

theorem witness_SameOperationInEveryMode :
    base.PassesMwaitChecks ∧ { base with mode := .long64 }.PassesMwaitChecks ∧ base.NextIpFits
      ∧ { base with mode := .long64 }.NextIpFits ∧ ∃ t, exec .mwait base = .next t :=
  ⟨base_passes, passes (by decide) (by decide), base_fits, by unfold State.NextIpFits; decide, _, rfl⟩

/-! ### Witnesses: the wait and its end -/

/-- Vector D5 after the arrival. -/
theorem witness_EveryExitLeadsToNext :
    let s := { sleeping 0 false with pending := [.nmi] };
    s.run = .waiting 0 false 0x1003 ∧ ∃ t, step s = .next t ∧ t.run = .executing := ⟨by decide, _, rfl, by decide⟩

/-- Each of the conditions (D3, D5, D6, D15). -/
theorem witness_DutyEventsEndTheWait :
    (∀ v ∈ [Event.nmi, .smi, .debugException, .machineCheck, .binit, .init, .reset],
      let s := { sleeping 0 false with pending := [v] };
      s.run = .waiting 0 false 0x1003 ∧ s.params.guest = false ∧ s.nextTurn = .core ∧ v ∈ s.pending)
    ∧ { sleeping 0 false with mon := .idle }.mon = .idle := by decide

/-- Vectors D7, D9, and D8 for the second clause. -/
theorem witness_ExternalInterruptsEndTheWaitIfDeliverableOrAsked :
    (let s := { sleeping 0 false with pending := [.extInt 48] };
      s.run = .waiting 0 false 0x1003 ∧ s.params.guest = false ∧ s.nextTurn = .core
        ∧ Event.extInt 48 ∈ s.pending ∧ s.intFlag = true ∧ 48 ∉ s.heldBack)
    ∧ (let s := { sleeping 0 true with pending := [.extInt 48], intFlag := false };
      s.run = .waiting 0 true 0x1003 ∧ s.params.guest = false ∧ s.nextTurn = .core ∧ Event.extInt 48 ∈ s.pending)
    ∧ (let s := { sleeping 0 false with pending := [.extInt 48], intFlag := false };
      s.run = .waiting 0 false 0x1003 ∧ s.params.guest = false ∧ s.nextTurn = .core ∧ s.mon ≠ .idle
        ∧ ∀ v ∈ s.pending, v = .extInt 48 ∧ s.intFlag = false)
    ∧ (let s := { sleeping 0 false with pending := [.extInt 48], heldBack := [48] };
      s.run = .waiting 0 false 0x1003 ∧ s.params.guest = false ∧ s.nextTurn = .core ∧ s.mon ≠ .idle
        ∧ ∀ v ∈ s.pending, v = .extInt 48 ∧ 48 ∈ s.heldBack) := by decide

theorem witness_MaskedInterruptWakesWithoutDelivery :
    let s := { sleeping 0 true with pending := [.extInt 48], intFlag := false, turns := [.core, .deliver (.extInt 48)] };
    s.run = .waiting 0 true 0x1003 ∧ s.params.guest = false ∧ s.intFlag = false ∧ Event.extInt 48 ∈ s.pending
      ∧ Event.binit ∉ s.pending ∧ s.turns = [.core, .deliver (.extInt 48)] := by decide

theorem witness_LibertyExitFromEveryWait :
    (sleeping 0 false).run = .waiting 0 false 0x1003 ∧ (sleeping 0 false).params.guest = false
      ∧ (sleeping 0 false).duty = false := by decide

/-- Every condition at once, still there after a turn that holds back all it may. -/
theorem witness_DutyPersistsUntilTheExit :
    let s := { sleeping 0 false with mon := .idle, pending := [.smi, .extInt 48], turns := [.holdBack [48]] };
    s.run = .waiting 0 false 0x1003 ∧ s.mon = .idle ∧ Event.smi ∈ s.pending ∧ s.deliverable 48 = true
      ∧ s.duty = true ∧ ∃ t, step s = .next t ∧ t.run = .waiting 0 false 0x1003 :=
  ⟨by decide, by decide, by decide, by decide, by decide, _, rfl, by decide⟩

theorem witness_DutyExitIsTakenWithinTheSchedule :
    let s := { sleeping 0 false with mon := .idle, turns := [.arrive .nmi, .load .nonProcessor 0] };
    s.run = .waiting 0 false 0x1003 ∧ s.params.guest = false ∧ s.duty = true := by decide

/-- Vector D16. -/
theorem witness_WaitWithoutDutyIsAHang :
    (sleeping 0 false).run = .waiting 0 false 0x1003 ∧ (sleeping 0 false).params.guest = false
      ∧ (sleeping 0 false).duty = false ∧ (sleeping 0 false).turns = [] := by decide

theorem witness_WaitingProcessorIsQuiet :
    (sleeping 0 false).run = .waiting 0 false 0x1003 ∧ ∃ t, step (sleeping 0 false) = .next t := ⟨by decide, _, rfl⟩

/-- For each reason not to wait, a state that has only that one. -/
theorem witness_OnlyMwaitEntersTheWait :
    (let s := { ready with mem := (loaded [0x0F, 0x01, 0xC9]).mem, turns := [.arrive .nmi] };
      s.run = .executing ∧ s.nextTurn ≠ .core ∧ ∃ t, step s = .next t)
    ∧ (let s := loaded [0x0F, 0x01, 0xC9];
      s.run = .executing ∧ s.mon = .idle ∧ ∃ t, step s = .next t)
    ∧ (let s := { ready with mem := (loaded [0x0F, 0x01, 0xC9]).mem, cpl := 3 };
      s.run = .executing ∧ ¬ s.PassesMwaitChecks ∧ ∃ t, step s = .next t)
    ∧ (let s := { ready with mem := (loaded [0x0F, 0x01, 0xC8]).mem };
      s.run = .executing ∧ (¬ ∃ rest, s.fetchBytes = 0x0F :: 0x01 :: 0xC9 :: rest) ∧ ∃ t, step s = .next t) :=
  ⟨⟨by decide, by decide, _, rfl⟩, ⟨by decide, by decide, _, rfl⟩,
    ⟨by decide, fun h => absurd h.recognised.level (by decide), _, rfl⟩,
    ⟨by decide, fun ⟨rest, h⟩ => absurd (congrArg (fun l => l[2]?) h) (by simp; decide), _, rfl⟩⟩

theorem witness_OnlyMonitorArms :
    ({ base with turns := [.load .self 0] }.nextTurn ≠ .core ∧ ∃ t, step { base with turns := [.load .self 0] } = .next t)
    ∧ ((sleeping 0 false).run ≠ .executing ∧ ∃ t, step (sleeping 0 false) = .next t)
    ∧ (let s := loaded [0x0F, 0x01, 0xC9];
      (¬ ∃ rest, s.fetchBytes = 0x0F :: 0x01 :: 0xC8 :: rest) ∧ ∃ t, step s = .next t) :=
  ⟨⟨by decide, _, rfl⟩, ⟨by decide, _, rfl⟩,
    ⟨fun ⟨rest, h⟩ => absurd (congrArg (fun l => l[2]?) h) (by simp; decide), _, rfl⟩⟩

/-! ### Witnesses: stores -/

/-- Vector D18, for both classes; the store only overlaps the range with its last byte. -/
theorem witness_StoreBeforeMwaitIsNotLost :
    ∀ a ∈ [Agent.otherProcessor, .nonProcessor],
      let s := { ready with turns := [.store a 0x1FFF [0, 1] false] };
      s.run = .executing ∧ s.params.guest = false ∧ Event.binit ∉ s.pending ∧ a ≠ .self
        ∧ s.mon = .armed [0x2000] ∧ StoreHits [0x2000] 0x1FFF ([0, 1] : List Byte).length
        ∧ s.turns = [.store a 0x1FFF [0, 1] false] := by
  intro a ha
  simp only [List.mem_cons, List.not_mem_nil, or_false] at ha
  obtain rfl | rfl := ha <;> exact ⟨by decide, by decide, by decide, by decide, by decide, hits_last, by decide⟩

/-- Vector D12. -/
theorem witness_ProcessorStoreEndsTheWait :
    let s := { sleeping 0x10 false with turns := [.store .otherProcessor 0x2000 [1] false, .core] };
    s.run = .waiting 0x10 false 0x1003 ∧ s.params.guest = false ∧ s.mon = .armed [0x2000]
      ∧ StoreHits [0x2000] 0x2000 ([1] : List Byte).length
      ∧ s.turns = [.store .otherProcessor 0x2000 [1] false, .core] :=
  ⟨by decide, by decide, by decide, hits_first, by decide⟩

/-- Vectors D13 and D14 (a duty), D11, C5, C8 and the switch (a choice). -/
theorem witness_DeviceStoreIsADutyOnlyAtShallowHints :
    (∀ h ∈ ([0, 0xF0, 0x10, 0xE0, 0x100] : List Word32),
      let s := { sleeping h false with
        turns := [.store .nonProcessor 0x2000 [1] false]
        params := { base.params with supportedHints := [0xF0, 0x10, 0xE0, 0x100] } };
      s.run = .waiting h false 0x1003 ∧ s.params.guest = false ∧ s.mon = .armed [0x2000]
        ∧ StoreHits [0x2000] 0x2000 ([1] : List Byte).length
        ∧ s.turns = [.store .nonProcessor 0x2000 [1] false]
        ∧ s.params.nonprocStoreIsDutyAtC1 = true ∧ s.params.cpuid05Ext = true
        ∧ (h = 0 ∨ h ∈ s.params.supportedHints))
    ∧ (0 : Word32).toNat / 16 % 16 = 0 ∧ (0xF0 : Word32).toNat / 16 % 16 = 15 ∧ (0xF0 : Word32).toNat < 256
    ∧ (0x10 : Word32).toNat / 16 % 16 = 1 ∧ (0xE0 : Word32).toNat / 16 % 16 = 14 ∧ 256 ≤ (0x100 : Word32).toNat
    ∧ (0xF0 : Word32) ∉ base.params.supportedHints
    ∧ { base.params with nonprocStoreIsDutyAtC1 := false }.nonprocStoreIsDutyAtC1 = false := by
  refine ⟨fun h hh => ?_, by decide, by decide, by decide, by decide, by decide, by decide, by decide, by decide⟩
  simp only [List.mem_cons, List.not_mem_nil, or_false] at hh
  obtain rfl | rfl | rfl | rfl | rfl := hh <;>
    exact ⟨by decide, by decide, by decide, hits_first, by decide, by decide, by decide, by decide⟩

theorem witness_OwnStoreMayTrigger :
    (let s := { ready with turns := [.store .self 0x2000 [1] true] };
      s.params.guest = false ∧ Event.binit ∉ s.pending ∧ s.mon = .armed [0x2000]
        ∧ StoreHits [0x2000] 0x2000 ([1] : List Byte).length ∧ s.run = .executing)
    ∧ (let s := { sleeping 0 false with turns := [.store .self 0x2000 [1] true] };
      s.params.guest = false ∧ Event.binit ∉ s.pending ∧ s.mon = .armed [0x2000] ∧ s.run ≠ .executing) :=
  ⟨⟨by decide, by decide, by decide, hits_first, by decide⟩, by decide⟩

/-- Vectors D4, on either side of the range, and D21. -/
theorem witness_OtherAccessesLeaveTheMonitor :
    (∀ a ∈ [0x1FFF, 0x2001], let s := { sleeping 0 false with turns := [.store .otherProcessor a [1] true] };
      s.turns = [.store .otherProcessor a [1] true] ∧ s.mon = .armed [0x2000]
        ∧ ¬ StoreHits [0x2000] a ([1] : List Byte).length ∧ ∃ t, step s = .next t)
    ∧ (let s := { sleeping 0 false with turns := [.load .otherProcessor 0x2000] };
      s.turns = [.load .otherProcessor 0x2000] ∧ ∃ t, step s = .next t) := by
  refine ⟨fun a ha => ?_, by decide, _, rfl⟩
  simp only [List.mem_cons, List.not_mem_nil, or_false] at ha
  obtain rfl | rfl := ha
  · exact ⟨rfl, by decide, misses_below, _, rfl⟩
  · exact ⟨rfl, by decide, misses_above, _, rfl⟩

theorem witness_StoreWritesExactlyItsBytes :
    (let s := { base with turns := [.store .self 0x3000 [1, 2] false] };
      s.turns = [.store .self 0x3000 [1, 2] false] ∧ s.run = .executing ∧ ∃ t, step s = .next t)
    ∧ (let s := { sleeping 0 false with turns := [.store .nonProcessor 0x3000 [] false] };
      s.turns = [.store .nonProcessor 0x3000 [] false] ∧ ∃ t, step s = .next t) :=
  ⟨⟨rfl, by decide, _, rfl⟩, rfl, _, rfl⟩

theorem witness_MemoryChangesOnlyWhereNoted :
    ∃ t, step { base with turns := [.store .otherProcessor 0x3000 [7] false], stored := [5] } = .next t
      ∧ t.stored = [0x3000, 5] ∧ t.mem.read 0x3000 = some 7 := ⟨_, rfl, by decide, by decide⟩

/-! ### Witnesses: MONITOR -/

/-- Outside 64-bit mode, and in it with the least RAX that does not fit EAX; level 3 and a clear feature bit do not
matter. -/
theorem witness_MonitorArmsARangeAroundItsAddress :
    ∀ m ∈ [Mode.virtual8086, .long64],
      let s := { base with mode := m, rax := 0x100000000, cpl := 3, miscEnableMonitor := false };
      s.rcx.toNat % 2 ^ 32 = 0 ∧ s.edx = 0 ∧ s.NextIpFits ∧ s.mode = m := by
  intro m hm
  simp only [List.mem_cons, List.not_mem_nil, or_false] at hm
  obtain rfl | rfl := hm <;> exact ⟨by decide, by decide, by unfold State.NextIpFits; decide, by decide⟩

theorem witness_MonitorRefusesOtherOperands :
    { base with rcx := 0x80000000 }.rcx.toNat % 2 ^ 32 ≠ 0 ∧ { base with edx := 1 }.edx ≠ 0 := by decide

/-! ### Witnesses: events -/

theorem witness_ArrivalAddsToThePendingSet :
    let s := { sleeping 0 false with turns := [.arrive (.extInt 255)] };
    s.turns = [.arrive (.extInt 255)] ∧ ∃ t, step s = .next t := ⟨rfl, _, rfl⟩

theorem witness_DeliveryRecordsTheBoundary :
    ∀ e ∈ [Event.nmi, .extInt 48],
      let s := { base with pending := [e], turns := [.deliver e] };
      s.run = .executing ∧ s.params.guest = false ∧ Event.binit ∉ s.pending ∧ e ∉ [Event.binit, .init, .reset]
        ∧ e ∈ s.pending ∧ s.intFlag = true ∧ s.heldBack = [] ∧ s.turns = [.deliver e] := by decide

theorem witness_MaskedOrAbsentEventsAreNotDelivered :
    ((sleeping 0 false).run ≠ .executing
      ∧ ∃ t, step { sleeping 0 false with pending := [.nmi], turns := [.deliver .nmi] } = .next t)
    ∧ (Event.nmi ∉ base.pending ∧ ∃ t, step { base with turns := [.deliver .nmi] } = .next t)
    ∧ (let s := { base with intFlag := false, pending := [.extInt 0], turns := [.deliver (.extInt 0)] };
      s.intFlag = false ∧ ∃ t, step s = .next t) :=
  ⟨⟨by decide, _, rfl⟩, ⟨by decide, _, rfl⟩, by decide, _, rfl⟩

/-- Vectors D5 and D7. -/
theorem witness_WakeEventIsDeliveredWithNext :
    ∀ e ∈ [Event.nmi, .extInt 48],
      let s := { sleeping 0 false with pending := [e], turns := [.core, .deliver e] };
      s.run = .waiting 0 false 0x1003 ∧ s.params.guest = false ∧ Event.binit ∉ s.pending
        ∧ e ∉ [Event.binit, .init, .reset] ∧ e ∈ s.pending ∧ s.intFlag = true ∧ s.heldBack = []
        ∧ s.turns = [.core, .deliver e] := by decide

/-- Vector D6, and a handler about to return. -/
theorem witness_NoRestartAfterSmi :
    (let s := { sleeping 0 false with pending := [.smi], turns := [.core, .deliver .smi] };
      s.run = .waiting 0 false 0x1003 ∧ s.params.guest = false ∧ Event.binit ∉ s.pending ∧ Event.smi ∈ s.pending
        ∧ s.turns = [.core, .deliver .smi])
    ∧ (let u := { base with frames := [⟨.event .smi, 0x1003⟩], turns := [.handlerReturn] };
      u.run = .executing ∧ u.params.guest = false ∧ Event.binit ∉ u.pending
        ∧ u.frames = [⟨.event .smi, 0x1003⟩] ∧ u.turns = [.handlerReturn]) := by decide

theorem witness_ReturnLeadsToTheRecordedAddress :
    (let s := { base with frames := [⟨.ud, 0x8000⟩], turns := [.handlerReturn] };
      s.run = .executing ∧ s.params.guest = false ∧ Event.binit ∉ s.pending ∧ s.frames = [⟨.ud, 0x8000⟩]
        ∧ s.turns = [.handlerReturn])
    ∧ ∃ t, exec .mwait { base with cpl := 1 } = .next t ∧ t.frames ≠ { base with cpl := 1 }.frames :=
  ⟨by decide, _, rfl, by simp [base, State.reset]⟩

theorem witness_NothingRunsPastBinit :
    let s := { base with pending := [.binit] };
    let w := { sleeping 0 false with pending := [.binit] };
    s.params.guest = false ∧ Event.binit ∈ s.pending ∧ s.run = .executing
      ∧ w.params.guest = false ∧ Event.binit ∈ w.pending ∧ w.run ≠ .executing := by decide

theorem witness_InitAndResetLeaveExecutingAndIdle :
    ∀ e ∈ [Event.init, .reset],
      let s := { ready with pending := [e], turns := [.deliver e] };
      s.run = .executing ∧ s.params.guest = false ∧ Event.binit ∉ s.pending ∧ (e = .init ∨ e = .reset)
        ∧ e ∈ s.pending ∧ s.turns = [.deliver e] := by decide

theorem witness_MiscEnableIsWrittenAtLevelZero :
    (let s := { base with turns := [.writeMiscEnable false] };
      s.turns = [.writeMiscEnable false] ∧ s.cpl = 0 ∧ ∃ t, step s = .next t)
    ∧ (let s := { base with cpl := 1, turns := [.writeMiscEnable false] };
      s.turns = [.writeMiscEnable false] ∧ s.cpl ≠ 0 ∧ ∃ t, step s = .next t) :=
  ⟨⟨rfl, by decide, _, rfl⟩, rfl, by decide, _, rfl⟩

/-! ### Witnesses: the whole machine -/

theorem witness_ParametersAreFixed :
    ∃ t, step { base with pending := [.reset], turns := [.deliver .reset] } = .next t := ⟨_, rfl⟩

/-- Each of the three ways a step can end. -/
theorem witness_EnteredStateIsNeverRead :
    (∃ t, step (loaded [0x0F, 0x01, 0xC9]) = .next t)
      ∧ step (loaded [0x0F, 0x01]) = .fault (.fetchUnwritten 0x1002)
      ∧ step (loaded [0x66, 0x0F, 0x01, 0xC9]) = .refused .prefixedForm := ⟨⟨_, rfl⟩, rfl, rfl⟩

/-- An executing and a waiting state that meet the invariant and step. -/
theorem witness_EveryStepKeepsTheInvariant :
    ((loaded [0x0F, 0x01, 0xC9]).Inv ∧ ∃ t, step (loaded [0x0F, 0x01, 0xC9]) = .next t)
    ∧ ((sleeping 0x10 true).Inv ∧ ∃ t, step (sleeping 0x10 true) = .next t) := by
  refine ⟨⟨⟨by decide, by decide, by decide, ?_, ?_, ?_, ?_⟩, _, rfl⟩,
    ⟨⟨by decide, by decide, by decide, ?_, ?_, ?_, ?_⟩, _, rfl⟩⟩
  · intro h e n hw; exact absurd hw (by simp [loaded, base, State.reset])
  · intro h e n hw; exact absurd hw (by simp [loaded, base, State.reset])
  · intro h e n hw; exact absurd hw (by simp [loaded, base, State.reset])
  · intro h n hw; exact absurd hw (by simp [loaded, base, State.reset])
  · intro h e n hw; cases hw; decide
  · intro h e n hw; cases hw; decide
  · intro h e n hw; cases hw; decide
  · intro h n hw; decide

end Sys2Proof.Tests
end

section
/-! PROOF. The encoding of MWAIT (30_encoding.md R60). -/

namespace Sys2Proof

/-- Settles O1: `decode_eq_ok` says the decoder answers an instruction exactly on its encoding, in every mode, and the
encoding of MWAIT is the three bytes of R60. -/
theorem mwaitIsExactlyThreeFixedBytes : Obligations.MwaitIsExactlyThreeFixedBytes := by
  intro m bs rest
  calc decode m bs = .ok (.mwait, rest)
      ↔ bs = encode .mwait ++ rest := decode_eq_ok
    _ ↔ bs = 0x0F :: 0x01 :: 0xC9 :: rest := Iff.rfl

end Sys2Proof
end

section
/-! PROOF. The checks of MWAIT (40_mwait.md R82 to R88, R106): what an MWAIT that raises does, and the obligations
about each check. -/

namespace Sys2Proof.Machine

/-- MWAIT's arm of the dispatch. -/
theorem exec_mwait (s : State) : exec .mwait s = execMwait s := rfl

/-- R88: only in real-address mode has #GP no error code. -/
theorem gpCause_eq (m : Mode) : gpCause m = if m = .real then .gp none else .gp (some 0) := by
  cases m <;> rfl

/-- Where a #UD condition holds, MWAIT takes #UD. -/
theorem exec_mwait_ud {s : State} (hg : s.params.guest = false) (h : ¬ s.Recognised) :
    exec .mwait s = .next (s.deliver .ud s.ip) := by
  rw [exec_mwait, execMwait_raises hg (mwaitCheck_ud h)]

/-- With no #UD condition, an operand check that fails gives the #GP of the mode. -/
theorem mwaitCheck_gp {s : State} (hr : s.Recognised) (hop : ¬ (s.ExtensionReservedClear ∧ s.ExtensionSupported)) :
    s.mwaitCheck = some (gpCause s.mode) := by
  have hne : s.mwaitCheck ≠ none := fun hn => hop (mwaitCheck_eq_none.mp hn).2
  rw [mwaitCheck_recognised hr] at hne ⊢
  exact if_pos (by_contra fun hc => hne (if_neg hc))

/-- With no #UD condition, MWAIT takes #GP where an operand check fails, without an error code in real-address mode. -/
theorem exec_mwait_gp {s : State} (hg : s.params.guest = false) (hr : s.Recognised)
    (hop : ¬ (s.ExtensionReservedClear ∧ s.ExtensionSupported)) :
    exec .mwait s = .next (s.deliver (if s.mode = .real then .gp none else .gp (some 0)) s.ip) := by
  rw [exec_mwait, execMwait_raises hg (mwaitCheck_gp hr hop), gpCause_eq]

/-- The causes of the checks, each #GP with the modes it is raised in. Virtual-8086 mode has none: its own #UD comes
before (R84). -/
theorem mwaitCheck_causes_by_mode {s : State} {c : Cause} (h : s.mwaitCheck = some c) :
    c = .ud ∨ (s.mode = .real ∧ c = .gp none)
      ∨ (s.mode ∈ [Mode.protectedMode, .compatibility, .long64] ∧ c = .gp (some 0)) := by
  obtain hc | hc := mwaitCheck_causes h
  · exact .inl hc
  · cases hm : s.mode <;> rw [hm] at hc
    case real => exact .inr (.inl ⟨rfl, hc⟩)
    case virtual8086 =>
      have hud := mwaitCheck_ud fun hr : s.Recognised => hr.notVirtual8086 hm
      exact .inl (Option.some.inj (h.symm.trans hud))
    all_goals exact .inr (.inr ⟨by decide, hc⟩)

/-- An MWAIT that passes its checks takes no exception, whether it waits or not. -/
@[simp] theorem State.mwaitIssue_frames (n : Word64) (s : State) : (s.mwaitIssue n).frames = s.frames := by
  unfold State.mwaitIssue
  split
  · rfl
  · unfold State.mwaitArmed
    cases Config.takesHint s.draws <;> rfl

end Sys2Proof.Machine

namespace Sys2Proof

open Machine

/-- Settles O11: with the feature bit 0 the bytes are not recognised as MWAIT, whichever of its two causes holds. -/
theorem featureBitClearRaisesInvalidOpcode : Obligations.FeatureBitClearRaisesInvalidOpcode := by
  intro s hg hoff
  have hclear : s.cpuid01Monitor = false := by
    obtain hhw | hmisc := hoff
    · simp [State.cpuid01Monitor, hhw]
    · simp [State.cpuid01Monitor, hmisc]
  have hnot : ¬ s.Recognised := fun hr => by
    obtain ⟨_, hset, _⟩ := (recognised_iff s).mp hr
    simp [hset] at hclear
  exact ⟨hclear, exec_mwait_ud hg hnot⟩

/-- Settles O14: RCX of 2 or more is not reserved-clear in 64-bit mode; RCX = 1 is, and then only R87 is left. -/
theorem reservedRcxBitsRaiseGp : Obligations.ReservedRcxBitsRaiseGp := by
  intro s hg hr hm
  refine ⟨fun hrcx => ?_, fun hrcx hbrk => ?_⟩
  · have hop : ¬ (s.ExtensionReservedClear ∧ s.ExtensionSupported) := fun ⟨hc, _⟩ =>
      absurd (hc.1 hm) (not_lt.mpr hrcx)
    simpa [hm] using exec_mwait_gp hg hr hop
  · have hc : s.ExtensionReservedClear := ⟨fun _ => by omega, fun h => absurd hm h⟩
    exact mwaitCheck_eq_none.mpr ⟨hr, hc, fun _ => hbrk⟩

/-- Settles O15: bit 0 without support fails the last operand check, whatever the reserved bits are. -/
theorem intBreakWithoutSupportRaisesGp : Obligations.IntBreakWithoutSupportRaisesGp := by
  intro s hg hr hbit hbrk
  have hop : ¬ (s.ExtensionReservedClear ∧ s.ExtensionSupported) := fun ⟨_, hs⟩ => by
    simp [hs hbit] at hbrk
  exact exec_mwait_gp hg hr hop

/-- Settles O17: an MWAIT with a next state has either raised one of the causes of the checks, or issued, which records
no frame. -/
theorem mwaitRaisesOnlyUdAndGp : Obligations.MwaitRaisesOnlyUdAndGp := by
  intro s t h
  rw [exec_mwait] at h
  obtain ⟨_, ⟨c, hcheck, rfl⟩ | ⟨n, _, _, rfl⟩⟩ := execMwait_next h
  · obtain rfl | ⟨hm, rfl⟩ | ⟨hm, rfl⟩ := mwaitCheck_causes_by_mode hcheck
    · exact .inr (.inl rfl)
    · exact .inr (.inr (.inl ⟨hm, rfl⟩))
    · exact .inr (.inr (.inr ⟨hm, rfl⟩))
  · exact .inl (State.mwaitIssue_frames n s)

/-- Settles O10: in virtual-8086 mode the bytes are not recognised as MWAIT, and no other condition is needed. -/
theorem virtualModeRaisesInvalidOpcode : Obligations.VirtualModeRaisesInvalidOpcode := by
  intro s hg hm
  exact exec_mwait_ud hg fun hr => hr.notVirtual8086 hm

end Sys2Proof
end

section
/-! PROOF. The decoder (30_encoding.md R60 to R65) and the names of C-states (10_state.md R12). -/

namespace Sys2Proof

/-- Every instruction is well formed: there is no field to check (30_encoding.md R61). -/
theorem Instr.wellFormed_eq_true (i : Instr) : i.wellFormed = true := by cases i <;> rfl

/-- Settles O3: `decode_eq_ok` says the decoder answers an instruction exactly on its encoding, and both directions are
that equivalence. -/
theorem decodeAndEncodeAgree : Obligations.DecodeAndEncodeAgree := by
  intro m
  refine ⟨fun i rest _ => decode_eq_ok.mpr rfl, fun bs i rest h => ?_⟩
  exact ⟨i.wellFormed_eq_true, decode_eq_ok.mp h⟩

/-- The byte both encodings begin with is no prefix byte. -/
theorem not_isPrefixByte_encodingStart (m : Mode) : ¬ isPrefixByte m 0x0F = true := by cases m <;> decide

/-- REX: 40H to 4FH is a prefix byte in 64-bit mode (30_encoding.md R65). -/
theorem isPrefixByte_rex {p : Byte} (h1 : 0x40 ≤ p.toNat) (h2 : p.toNat ≤ 0x4F) : isPrefixByte .long64 p = true := by
  have h : p.toNat / 16 = 4 := by omega
  simp [isPrefixByte, h]

/-- Prefix bytes in front of an encoding are dropped, and the encoding is left. -/
theorem dropWhile_prefixes {m : Mode} {ps : List Byte} (hps : ∀ p ∈ ps, isPrefixByte m p = true) (i : Instr)
    (rest : List Byte) : (ps ++ (encode i ++ rest)).dropWhile (isPrefixByte m) = encode i ++ rest := by
  rw [List.dropWhile_append_of_pos hps]
  cases i <;> exact List.dropWhile_cons_of_neg (not_isPrefixByte_encodingStart m)

/-- Bytes that begin with a prefix byte are no encoding. -/
theorem ne_encode_of_prefix {m : Mode} {p : Byte} (hp : isPrefixByte m p = true) (bs : List Byte) (i : Instr)
    (rest : List Byte) : p :: bs ≠ encode i ++ rest := by
  intro h
  have hhead : p = 0x0F := by cases i <;> exact (List.cons.inj h).1
  exact not_isPrefixByte_encodingStart m (hhead ▸ hp)

/-- Settles O4: bytes behind a prefix are no encoding, so the decoder names the refusal, and the name looks at what is
left when the prefixes are dropped: an encoding. -/
theorem prefixedFormsAreRefusedByName : Obligations.PrefixedFormsAreRefusedByName := by
  refine ⟨fun m => by cases m <;> decide, fun p => isPrefixByte_rex, fun m ps i rest hne hps => ?_⟩
  have hnot : ∀ j r, ps ++ (encode i ++ rest) ≠ encode j ++ r := by
    obtain ⟨p, ps', rfl⟩ := List.exists_cons_of_ne_nil hne
    exact ne_encode_of_prefix (hps p List.mem_cons_self) _
  rw [decode_of_not_encoding hnot, classify, dropWhile_prefixes hps, matchBytes_eq_some.mpr rfl]
  rfl

/-- Settles O2: the vectors are fixed bytes, so the decoder's answers are computed. -/
theorem decodesTheSpecsVectors : Obligations.DecodesTheSpecsVectors := by
  unfold Obligations.DecodesTheSpecsVectors
  decide

/-- Settles O60: there are sixteen target fields, and each is computed. -/
theorem targetFieldNamesACState : Obligations.TargetFieldNamesACState := by
  unfold Obligations.TargetFieldNamesACState
  decide

end Sys2Proof
end

section
/-! PROOF. The step of an executing processor whose turn it is: what it fetches, and what stops it (30_encoding.md R64,
R65; 20_memory.md R52; 60_exceptions.md R142, R151). -/

namespace Sys2Proof.Machine

/-- MONITOR's arm of the dispatch. -/
theorem exec_monitor (s : State) : exec .monitor s = execMonitor s := rfl

/-- Using a turn changes no byte the fetch sees. -/
@[simp] theorem State.afterTurn_fetchBytes (s : State) : s.afterTurn.fetchBytes = s.fetchBytes := rfl

/-- A guest has no MWAIT (60_exceptions.md R151). -/
theorem execMwait_guest {s : State} (hg : s.params.guest = true) : execMwait s = .refused .guest :=
  if_pos hg

/-- A guest has no step. -/
theorem step_guest {s : State} (hg : s.params.guest = true) : step s = .refused .guest := by
  simp [step, hg]

/-- An executing processor with BINIT# pending has no step. -/
theorem step_pastBinit {s : State} (hg : s.params.guest = false) (hb : s.pastBinit = true) :
    step s = .refused .binit := by
  simp [step, hg, hb]

/-- The executing processor's own turn is its fetch. -/
theorem step_fetches {s : State} (hr : s.run = .executing) (ht : s.nextTurn = .core) (hg : s.params.guest = false)
    (hb : Event.binit ∉ s.pending) : step s = s.afterTurn.fetchExec := by
  rw [step_eq_turn hg (pastBinit_notPending hb), ht]
  exact coreTurn_executing hr

/-- The fetch of an unmodified instruction is that instruction. -/
theorem fetchExec_unmodified {s : State} {i : Instr} {rest : List Byte}
    (hd : decode s.mode s.fetchBytes = .ok (i, rest)) (hmod : s.textModified 3 = false) : s.fetchExec = exec i s := by
  simp [State.fetchExec, hd, hmod]

/-- The fetch of a modified instruction is refused (20_memory.md R52). -/
theorem fetchExec_modified {s : State} {i : Instr} {rest : List Byte}
    (hd : decode s.mode s.fetchBytes = .ok (i, rest)) (hmod : s.textModified 3 = true) :
    s.fetchExec = .refused .textModified := by
  simp [State.fetchExec, hd, hmod]

/-- The fetch of an instruction one of whose bytes was stored to. -/
theorem fetchExec_storedTo {s : State} {i : Instr}
    (h : ∀ k < 3, s.mem.read (s.ip.toNat + k) = (encode i)[k]?)
    (hs : ∃ k < 3, s.ip.toNat + k ∈ s.stored) : s.fetchExec = .refused .textModified := by
  obtain ⟨rest, hbytes⟩ := fetchBytes_of_encode h
  have hmod : s.textModified 3 = true := by
    simpa [State.textModified] using hs
  exact fetchExec_modified (decode_eq_ok.mpr hbytes) hmod

/-- The fetch where the bytes run out at an address nothing has written. -/
theorem fetchExec_unwritten {s : State} {n : Nat} (hd : decode s.mode s.fetchBytes = .error .incomplete) (hn : n < 15)
    (hnone : s.mem.read (s.ip.toNat + n) = none) (hsome : ∀ k < n, s.mem.read (s.ip.toNat + k) ≠ none) :
    s.fetchExec = .fault (.fetchUnwritten (s.ip.toNat + n)) := by
  have hlen : s.fetchBytes.length = n := Memory.window_length_of_none hn hnone hsome
  have hne : n ≠ fetchLength := Nat.ne_of_lt hn
  simp [State.fetchExec, hd, hlen, hne]

/-- The fetch where all the bytes it looks at are written and decide nothing. -/
theorem fetchExec_windowFull {s : State} (hd : decode s.mode s.fetchBytes = .error .incomplete)
    (hsome : ∀ k < 15, s.mem.read (s.ip.toNat + k) ≠ none) : s.fetchExec = .refused .outsideSpec := by
  have hlen : s.fetchBytes.length = fetchLength := Memory.window_length_of_full hsome
  simp [State.fetchExec, hd, hlen]

/-- A state with an instruction's table word loaded is about to execute that instruction. -/
theorem withFetchWord_aboutToExecute (s : State) {w : Nat} {i : Instr} (hw : tableBytes 24 w = encode i) :
    (s.withFetchWord 24 w).AboutToExecute i where
  executing := rfl
  turn := by
    unfold State.withFetchWord State.nextTurn
    by_cases h : s.turns = [] <;> simp [h]
  notGuest := rfl
  noBinit := by simp [State.withFetchWord]
  bytes := fun k hk => by
    show (s.mem.writeBytes s.ip.toNat (tableBytes 24 w)).read (s.ip.toNat + k) = _
    rw [hw, Memory.read_writeBytes, encode_length, if_pos (by omega), Nat.add_sub_cancel_left]
  unmodified := fun k hk => by
    simp only [State.withFetchWord, hw, encode_length, List.mem_filter]
    simp [hk]

/-- Using the turn that loading a word has added leaves the schedule that stood before. -/
theorem withFetchWord_afterTurn (s : State) (w : Nat) :
    (s.withFetchWord 24 w).afterTurn = { s.withFetchWord 24 w with turns := s.turns } := by
  have hturns : (s.withFetchWord 24 w).turns.tail = s.turns := by
    unfold State.withFetchWord
    by_cases h : s.turns = [] <;> simp [h]
  rw [State.afterTurn, hturns]

end Sys2Proof.Machine

namespace Sys2Proof

open Machine

/-- Settles O5: the step is the fetch, and the fetch of an unmodified encoding executes it. -/
theorem stepRunsTheDecodedInstruction : Obligations.StepRunsTheDecodedInstruction := by
  intro s i ⟨hr, ht, hg, hb, hbytes, hunmod⟩
  rw [step_fetches hr ht hg hb]
  exact fetchExec_of_encode hbytes hunmod

/-- Settles O6: the step is the fetch, which answers the decoder's refusal under its name; an incomplete one it names by
how far the written bytes reach. -/
theorem stepRefusesWhatIsNoInstruction : Obligations.StepRefusesWhatIsNoInstruction := by
  intro s hr ht hg hb
  rw [step_fetches hr ht hg hb]
  refine ⟨fun hd => ?_, fun hd => ?_, fun hd => ⟨fun n hn hnone hsome => ?_, fun hfull => ?_⟩⟩
  · simp [State.fetchExec, hd]
  · simp [State.fetchExec, hd]
  · exact fetchExec_unwritten (s := s.afterTurn) hd hn hnone hsome
  · exact fetchExec_windowFull (s := s.afterTurn) hd hfull

/-- Settles O7: loading the word makes the state one that is about to execute, so that O5 speaks of its step; the turn
it uses is the added one. -/
theorem withFetchWordRunsTheTableRow : Obligations.WithFetchWordRunsTheTableRow := by
  intro s
  have runs : ∀ {w : Nat} {i : Instr}, tableBytes 24 w = encode i →
      step (s.withFetchWord 24 w) = exec i { s.withFetchWord 24 w with turns := s.turns } := fun {w i} hw => by
    rw [← withFetchWord_afterTurn]
    exact stepRunsTheDecodedInstruction _ i (withFetchWord_aboutToExecute s hw)
  exact ⟨runs (i := .mwait) (by decide), runs (i := .monitor) (by decide)⟩

/-- Settles O8: the step is the fetch, and the fetch looks at the notes of stored addresses before it executes. -/
theorem modifiedProgramTextIsRefused : Obligations.ModifiedProgramTextIsRefused := by
  intro s i hr ht hg hb hbytes hstored
  rw [step_fetches hr ht hg hb]
  exact fetchExec_storedTo (s := s.afterTurn) hbytes hstored

/-- Settles O9: the step looks at the guest parameter first, and so does MWAIT. -/
theorem guestIsRefused : Obligations.GuestIsRefused := by
  intro s hg
  exact ⟨step_guest hg, execMwait_guest hg⟩

/-- Settles O52: BINIT# breaks every wait, and an executing processor is past it. -/
theorem nothingRunsPastBinit : Obligations.NothingRunsPastBinit := by
  intro s hg hb
  refine ⟨fun hr => step_pastBinit hg (by simp [State.pastBinit, hr, hb]), fun hr => ?_⟩
  cases hrun : s.run with
  | executing => exact absurd hrun hr
  | waiting h e n => exact (duty_waiting hrun).mpr (.inr ⟨.binit, hb, rfl⟩)

end Sys2Proof
end

section
/-! PROOF. MWAIT as one operation: its checks (40_mwait.md R81 to R88), the choice to wait (R90 to R92), and what it
writes (R103, R133). -/

namespace Sys2Proof.Machine

/-- Where `ip + 3` fits, `NextIP` is that number. -/
theorem State.NextIpFits.nextIp {s : State} (h : s.NextIpFits) :
    ∃ n : Word64, n.toNat = s.ip.toNat + 3 ∧ nextIp s.pointerBits s.ip 3 = some n := by
  have hlt : s.ip.toNat + 3 < 2 ^ 64 := lt_of_lt_of_le h (Nat.pow_le_pow_right (by decide) (pointerBits_le s))
  have hn : (BitVec.ofNat 64 (s.ip.toNat + 3)).toNat = s.ip.toNat + 3 := Nat.mod_eq_of_lt hlt
  exact ⟨_, hn, (nextIp_eq_some (pointerBits_le s)).mpr ⟨h, hn⟩⟩

/-- Where `ip + 3` does not fit there is no `NextIP`. -/
theorem nextIp_of_not_fits {s : State} (h : ¬ s.NextIpFits) : nextIp s.pointerBits s.ip 3 = none :=
  nextIp_eq_none.mpr (not_lt.mp h)

/-- The checks pass exactly where no cause is raised and the processor is no guest. -/
theorem passesMwaitChecks_iff {s : State} :
    s.PassesMwaitChecks ↔ s.params.guest = false ∧ s.mwaitCheck = none := by
  rw [mwaitCheck_eq_none]
  exact ⟨fun ⟨hg, hr, hc, hs⟩ => ⟨hg, hr, hc, hs⟩, fun ⟨hg, hr, hc, hs⟩ => ⟨hg, hr, hc, hs⟩⟩

/-- Whether the checks pass is a matter of the cause and the guest parameter alone. -/
theorem State.PassesMwaitChecks.congr {s t : State} (hp : s.PassesMwaitChecks)
    (hg : t.params.guest = s.params.guest) (hc : t.mwaitCheck = s.mwaitCheck) : t.PassesMwaitChecks := by
  rw [passesMwaitChecks_iff] at hp ⊢
  rwa [hg, hc]

/-! ### The issue stage -/

/-- The monitor hardware is idle or armed on a range. -/
theorem Monitor.idle_or_armed : ∀ m : Monitor, m = .idle ∨ ∃ range, m = .armed range
  | .idle => .inl rfl
  | .armed range => .inr ⟨range, rfl⟩

/-- R90: an idle monitor falls through. -/
theorem mwaitIssue_idle {s : State} (hm : s.mon = .idle) (n : Word64) : s.mwaitIssue n = s.complete n := by
  simp [State.mwaitIssue, hm]

/-- R91: an armed monitor leaves the choice. -/
theorem mwaitIssue_armed {s : State} {range : List Nat} (hm : s.mon = .armed range) (n : Word64) :
    s.mwaitIssue n =
      { (if Config.takesHint s.draws then s.enterWait n else s.complete n) with draws := s.draws + 1 } := by
  simp [State.mwaitIssue, hm, State.mwaitArmed]

/-- The issue stage completes, or it waits with the monitor armed. -/
theorem mwaitIssue_cases (s : State) (n : Word64) :
    (∃ d, s.mwaitIssue n = { s.complete n with draws := d })
      ∨ (s.mon ≠ .idle ∧ ∃ d, s.mwaitIssue n = { s.enterWait n with draws := d }) := by
  obtain hm | ⟨range, hm⟩ := s.mon.idle_or_armed
  · exact .inl ⟨s.draws, mwaitIssue_idle hm n⟩
  · rw [mwaitIssue_armed hm]
    cases Config.takesHint s.draws with
    | true => exact .inr ⟨by simp [hm], _, rfl⟩
    | false => exact .inl ⟨_, rfl⟩

/-- R102: the issue stage depends on the mode in nothing. -/
theorem mwaitIssue_mode (s : State) (n : Word64) (m : Mode) :
    { s with mode := m }.mwaitIssue n = { s.mwaitIssue n with mode := m } := by
  obtain hm | ⟨range, hm⟩ := s.mon.idle_or_armed
  · rw [mwaitIssue_idle hm, mwaitIssue_idle (s := { s with mode := m }) hm]
    rfl
  · rw [mwaitIssue_armed hm, mwaitIssue_armed (s := { s with mode := m }) hm]
    cases Config.takesHint s.draws <;> rfl

/-! ### MWAIT with and without an exception -/

/-- An MWAIT that gives a next state and takes no exception has passed its checks and issued. -/
theorem exec_mwait_issues {s t : State} (h : exec .mwait s = .next t) (hf : t.frames = s.frames) :
    ∃ n, s.PassesMwaitChecks ∧ nextIp s.pointerBits s.ip 3 = some n ∧ t = s.mwaitIssue n := by
  rw [exec_mwait] at h
  obtain ⟨hg, ⟨c, _, rfl⟩ | ⟨n, hcheck, hn, rfl⟩⟩ := execMwait_next h
  · exact absurd hf (List.cons_ne_self _ _)
  · exact ⟨n, passesMwaitChecks_iff.mpr ⟨hg, hcheck⟩, hn, rfl⟩

/-- An MWAIT that takes an exception has called `Deliver` with its own address. -/
theorem exec_mwait_raises {s t : State} (h : exec .mwait s = .next t) (hf : t.frames ≠ s.frames) :
    ∃ c, t = s.deliver c s.ip := by
  rw [exec_mwait] at h
  obtain ⟨_, ⟨c, _, rfl⟩ | ⟨n, _, _, rfl⟩⟩ := execMwait_next h
  · exact ⟨c, rfl⟩
  · exact absurd (State.mwaitIssue_frames n s) hf

/-- An MWAIT that passes its checks where `ip + 3` fits issues. -/
theorem exec_mwait_of_passes {s : State} (hp : s.PassesMwaitChecks) (hfit : s.NextIpFits) :
    ∃ n : Word64, n.toNat = s.ip.toNat + 3 ∧ exec .mwait s = .next (s.mwaitIssue n) := by
  obtain ⟨n, hn, hnext⟩ := hfit.nextIp
  exact ⟨n, hn, execMwait_passes hp hnext⟩

/-- An MWAIT that passes its checks where `ip + 3` does not fit has no step (10_state.md R18). -/
theorem execMwait_doesNotFit {s : State} (hg : s.params.guest = false) (hc : s.mwaitCheck = none)
    (hn : nextIp s.pointerBits s.ip 3 = none) : execMwait s = .refused .nextIpDoesNotFit := by
  simp [execMwait, hg, hc, hn]

/-- R90, R92: with the monitor idle an executing processor's MWAIT does not wait. -/
theorem exec_mwait_idle_executes {s t : State} (hr : s.run = .executing) (hm : s.mon = .idle)
    (h : exec .mwait s = .next t) : t.run = .executing := by
  rw [exec_mwait] at h
  obtain ⟨_, ⟨c, _, rfl⟩ | ⟨n, _, _, rfl⟩⟩ := execMwait_next h
  · exact hr
  · rw [mwaitIssue_idle hm, State.complete_run]

/-! ### MONITOR (41_monitor_companion.md R120, R121) -/

/-- MONITOR with other operands than it may have. -/
theorem execMonitor_refuses {s : State} (hops : ¬ (s.ecx = 0 ∧ s.edx = 0)) :
    execMonitor s = .refused .monitorOperands :=
  if_neg hops

/-- MONITOR where `ip + 3` does not fit. -/
theorem execMonitor_doesNotFit {s : State} (hops : s.ecx = 0 ∧ s.edx = 0)
    (hn : nextIp s.pointerBits s.ip 3 = none) : execMonitor s = .refused .nextIpDoesNotFit := by
  rw [execMonitor, if_pos hops, hn]

/-- MONITOR that completes. -/
theorem execMonitor_completes {s : State} {n : Word64} (hops : s.ecx = 0 ∧ s.edx = 0)
    (hn : nextIp s.pointerBits s.ip 3 = some n) : execMonitor s = .next
      { s with
        mon := monitorOutcome (Config.monitorArms s.draws) s.monitorAddress
        ip := n
        draws := s.draws + 1 } := by
  rw [execMonitor, if_pos hops, hn]

/-! ### The operands, by their numbers -/

/-- Outside 64-bit mode the checks see only the low half of RCX (92_eei_decisions.md D18). -/
theorem mwaitCheck_lowHalf {s : State} {r : Word64} (hm : s.mode ≠ .long64)
    (hr : r.toNat % 2 ^ 32 = s.rcx.toNat % 2 ^ 32) : { s with rcx := r }.mwaitCheck = s.mwaitCheck := by
  have hres : { s with rcx := r }.extReservedSet = s.extReservedSet := by
    rw [extReservedSet_other hm, extReservedSet_other (s := { s with rcx := r }) hm, hr]
  have hbit : r.toNat % 2 = s.rcx.toNat % 2 := by omega
  have hbrk : { s with rcx := r }.extIntBrk = s.extIntBrk := by
    rw [extIntBrk_eq, extIntBrk_eq, hbit]
  unfold State.mwaitCheck
  rw [hres, hbrk]
  rfl

/-- EAX is the low half of RAX. -/
theorem eax_toNat (s : State) : s.eax.toNat = s.rax.toNat % 2 ^ 32 := by
  simp [State.eax, BitVec.extractLsb'_toNat]

/-- Outside 64-bit mode MONITOR's address is EAX. -/
theorem monitorAddress_other {s : State} (hm : s.mode ≠ .long64) : s.monitorAddress = s.rax.toNat % 2 ^ 32 := by
  rw [← eax_toNat]
  unfold State.monitorAddress
  split
  · exact absurd ‹_› hm
  all_goals rfl

/-- In 64-bit mode MONITOR's address is EAX or RAX (41_monitor_companion.md R121). -/
theorem monitorAddress_long64 {s : State} (hm : s.mode = .long64) :
    s.monitorAddress = s.rax.toNat % 2 ^ 32 ∨ s.monitorAddress = s.rax.toNat := by
  rw [← eax_toNat, State.monitorAddress, hm]
  cases Config.monitorAddressIsRax <;> simp

/-- A range contains the address it is of (20_memory.md R44). -/
theorem mem_monRange (addr : Nat) : addr ∈ monRange addr := List.mem_cons_self

/-- ECX is 0 exactly where its number is. -/
theorem ecx_eq_zero {s : State} : s.ecx = 0 ↔ s.rcx.toNat % 2 ^ 32 = 0 := by
  rw [← ecx_toNat, ← BitVec.toNat_inj]
  rfl

end Sys2Proof.Machine

namespace Sys2Proof

open Machine

/-! ### The checks -/

/-- Settles O12: outside level 0 the three checking modes do not recognise MWAIT; real-address mode recognises it at
every level, so that it issues there. -/
theorem privilegeIsCheckedExceptInRealMode : Obligations.PrivilegeIsCheckedExceptInRealMode := by
  refine ⟨fun s hg hm hcpl => exec_mwait_ud hg fun hr => ?_, fun s level hm hp hfit => ?_⟩
  · obtain hreal | hzero := hr.level
    · simp [hreal] at hm
    · exact hcpl hzero
  · have hr : { s with cpl := level }.Recognised := ⟨hp.recognised.notVirtual8086, hp.recognised.feature, .inl hm⟩
    obtain ⟨n, _, h⟩ := exec_mwait_of_passes (s := { s with cpl := level })
      ⟨hp.notGuest, hr, hp.reservedClear, hp.supported⟩ hfit
    exact ⟨_, h, State.mwaitIssue_frames n _⟩

/-- Settles O13: the reserved part is not clear, and the checks see RCX by its low half only. -/
theorem reservedEcxBitsRaiseGp : Obligations.ReservedEcxBitsRaiseGp := by
  refine ⟨fun s hg hr hm hrcx => exec_mwait_gp hg hr fun ⟨hclear, _⟩ => ?_, fun s r hm => mwaitCheck_lowHalf hm⟩
  exact absurd (hclear.2 hm) (not_lt.mpr hrcx)

/-- Settles O16: the two clauses are the two shapes of a failing check. -/
theorem invalidOpcodePrecedesGp : Obligations.InvalidOpcodePrecedesGp := fun _ hg =>
  ⟨exec_mwait_ud hg, exec_mwait_gp hg⟩

/-! ### To wait or not -/

/-- Settles O18: no check and no choice reads RAX, so the MWAIT with the other value issues too, and the two issue
stages take the same way. -/
theorem eaxIsOnlyRecorded : Obligations.EaxIsOnlyRecorded := by
  intro s t r hrun h hf
  obtain ⟨n, hp, hn, rfl⟩ := exec_mwait_issues h hf
  have hp' : { s with rax := r }.PassesMwaitChecks := hp.congr rfl rfl
  refine ⟨_, execMwait_passes hp' hn, by simp, ?_⟩
  obtain hm | ⟨range, hm⟩ := s.mon.idle_or_armed
  · rw [mwaitIssue_idle hm, mwaitIssue_idle (s := { s with rax := r }) hm]
    exact ⟨rfl, rfl, .inl ⟨rfl, rfl⟩⟩
  · rw [mwaitIssue_armed hm, mwaitIssue_armed (s := { s with rax := r }) hm]
    cases Config.takesHint s.draws with
    | true => exact ⟨rfl, rfl, .inr ⟨_, _, _, _, rfl, rfl, eax_toNat s, eax_toNat { s with rax := r }⟩⟩
    | false => exact ⟨rfl, rfl, .inl ⟨rfl, rfl⟩⟩

/-- Settles O19: the MWAIT issues and falls through; what completion writes but `ip` and `entered` stands already. -/
theorem idleMonitorFallsThrough : Obligations.IdleMonitorFallsThrough := by
  intro s hr hp hfit hm
  obtain ⟨n, hn, h⟩ := exec_mwait_of_passes hp hfit
  refine ⟨n, hn, ?_⟩
  rw [h, mwaitIssue_idle hm, State.complete, ← hr, ← hm]

/-- Settles O20: the MWAIT issues, and each value of the free Boolean gives one of the two states. -/
theorem armedMonitorLeavesTheChoice : Obligations.ArmedMonitorLeavesTheChoice := by
  intro s range hr hp hfit hm
  obtain ⟨n, hn, h⟩ := exec_mwait_of_passes hp hfit
  refine ⟨n, Config.enteredState s.draws s.eax, hn, ?_⟩
  rw [h, mwaitIssue_armed hm]
  cases Config.takesHint s.draws with
  | true => simp [State.enterWait, State.eax, extIntBrk_eq]
  | false => simp [State.complete, hr]

/-- Settles O21: completion makes the monitor idle, and an idle monitor does not let the next MWAIT wait; an exception
goes through `Deliver`, which leaves the monitor. -/
theorem mwaitConsumesTheArming : Obligations.MwaitConsumesTheArming := by
  refine ⟨fun s t _ h hf hrt => ?_, fun s t h hf => ?_⟩
  · obtain ⟨n, _, _, rfl⟩ := exec_mwait_issues h hf
    have hidle : (s.mwaitIssue n).mon = .idle := by
      obtain ⟨d, hd⟩ | ⟨_, d, hd⟩ := mwaitIssue_cases s n <;> rw [hd] at hrt ⊢
      · rfl
      · cases hrt
    exact ⟨hidle, fun u => exec_mwait_idle_executes hrt hidle⟩
  · obtain ⟨c, rfl⟩ := exec_mwait_raises h hf
    rfl

/-- Settles O22: neither completion nor the begin of a wait writes any of these components, and `ip` is written by
completion only. -/
theorem mwaitWritesNothingElse : Obligations.MwaitWritesNothingElse := by
  intro s t h hf
  obtain ⟨n, _, hn, rfl⟩ := exec_mwait_issues h hf
  obtain ⟨_, hn⟩ := (nextIp_eq_some (pointerBits_le s)).mp hn
  obtain ⟨d, hd⟩ | ⟨_, d, hd⟩ := mwaitIssue_cases s n <;> rw [hd]
  · exact ⟨⟨rfl, rfl, rfl, rfl, rfl⟩, ⟨rfl, rfl, rfl⟩, ⟨fun _ => rfl, rfl⟩, ⟨rfl, rfl, rfl⟩, .inr hn⟩
  · exact ⟨⟨rfl, rfl, rfl, rfl, rfl⟩, ⟨rfl, rfl, rfl⟩, ⟨fun _ => rfl, rfl⟩, ⟨rfl, rfl, rfl⟩, .inl rfl⟩

/-- Settles O23: an MWAIT with an exception is one `Deliver`, which writes the cells of its entry and no other. -/
theorem faultingMwaitChangesOnlyByDelivery : Obligations.FaultingMwaitChangesOnlyByDelivery := by
  intro s t h hf
  obtain ⟨c, rfl⟩ := exec_mwait_raises h hf
  exact ⟨c, rfl, ⟨rfl, rfl, rfl, rfl, rfl⟩, ⟨rfl, rfl, rfl⟩, rfl, rfl, rfl,
    fun a ha => Memory.read_writeCells_other _ _ ha⟩

/-- Settles O24: both instructions ask for `NextIP` after their own conditions, and there is none. -/
theorem noStepWhereNextIpDoesNotFit : Obligations.NoStepWhereNextIpDoesNotFit := by
  intro s hfit
  have hnone := nextIp_of_not_fits hfit
  refine ⟨fun hp => ?_, fun hc hd => ?_⟩
  · obtain ⟨hg, hcheck⟩ := passesMwaitChecks_iff.mp hp
    exact execMwait_doesNotFit hg hcheck hnone
  · exact execMonitor_doesNotFit ⟨hc, hd⟩ hnone

/-- Settles O25: both MWAITs issue with the same `NextIP`, and the issue stage does not look at the mode. -/
theorem sameOperationInEveryMode : Obligations.SameOperationInEveryMode := by
  intro s t m hp hp' hfit hfit' h
  obtain ⟨n, hn, hs⟩ := exec_mwait_of_passes hp hfit
  obtain ⟨n', hn', hs'⟩ := exec_mwait_of_passes hp' hfit'
  have hnn : n' = n := BitVec.eq_of_toNat_eq (hn'.trans hn.symm)
  obtain rfl : s.mwaitIssue n = t := Host.Outcome.next.inj (hs.symm.trans h)
  rw [hs', hnn, mwaitIssue_mode]

/-! ### MONITOR -/

/-- Settles O44: MONITOR has its operands and `NextIP`, and the range is the one of its address, which lies in it. -/
theorem monitorArmsARangeAroundItsAddress : Obligations.MonitorArmsARangeAroundItsAddress := by
  intro s hc hd hfit
  obtain ⟨n, hn, hnext⟩ := hfit.nextIp
  have hmem := mem_monRange s.monitorAddress
  refine ⟨n, monRange s.monitorAddress, hn, fun hm => ?_, fun hm => ?_, ?_⟩
  · rwa [monitorAddress_other hm] at hmem ⊢
  · obtain ha | ha := monitorAddress_long64 hm <;> rw [ha] at hmem ⊢
    · exact .inl hmem
    · exact .inr hmem
  · exact execMonitor_completes ⟨ecx_eq_zero.mpr hc, hd⟩ hnext

/-- Settles O45: MONITOR looks at its operands first. -/
theorem monitorRefusesOtherOperands : Obligations.MonitorRefusesOtherOperands := by
  intro s hne
  exact execMonitor_refuses fun ⟨hc, hd⟩ => hne.elim (· (ecx_eq_zero.mp hc)) (· hd)

end Sys2Proof
end

section
/-! PROOF. What one step can do, said once: the relation `Transition`, in which every step with a next state lies, and
the invariants of the machine read off it case by case (10_state.md section 9). -/

namespace Sys2Proof.Machine

/-- What a turn with a next state can have done to a state, with all that later proofs need of when it does so. -/
inductive Transition (s : State) : Turn → State → Prop
  /-- Nothing: a load, a turn that finds nothing to do, or the turn of a waiting processor with no duty. -/
  | idle (turn : Turn) : Transition s turn s
  /-- The exit step (40_mwait.md R97). -/
  | exit {turn : Turn} {hint : Word32} {ext : Bool} {next : Word64} :
      s.run = .waiting hint ext next → Transition s turn (s.complete next)
  /-- MWAIT with an exception. -/
  | raise {cause : Cause} : s.run = .executing → s.mwaitCheck = some cause →
      Transition s .core (s.deliver cause s.ip)
  /-- MWAIT that completes at once (40_mwait.md R90, R91). -/
  | complete (next : Word64) (draws : Nat) : s.run = .executing →
      Transition s .core { s.complete next with draws := draws }
  /-- MWAIT that begins a wait (40_mwait.md R91). -/
  | wait {next : Word64} {rest : List Byte} (draws : Nat) : s.run = .executing → s.mon ≠ .idle →
      s.fetchBytes = encode .mwait ++ rest → s.PassesMwaitChecks → nextIp s.pointerBits s.ip 3 = some next →
      Transition s .core { s.enterWait next with draws := draws }
  /-- MONITOR. -/
  | monitor {next : Word64} {rest : List Byte} (mon : Monitor) (draws : Nat) : s.run = .executing →
      s.fetchBytes = encode .monitor ++ rest →
      Transition s .core { s with mon := mon, ip := next, draws := draws }
  /-- The arrival of an event. -/
  | arrive (e : Event) : Transition s (.arrive e) (s.arrive e)
  /-- A store, which leaves the monitor or triggers it. -/
  | store {agent : Agent} {addr : Nat} {data : List Byte} {noticed : Bool} (mon : Monitor) :
      mon = s.mon ∨ mon = .idle →
      Transition s (.store agent addr data noticed)
        { s with
          mem := s.mem.writeBytes addr data
          stored := noteStored s.stored ((List.range data.length).map (addr + ·))
          mon := mon }
  /-- The delivery of an event other than INIT# and RESET#. -/
  | deliver (e : Event) : s.run = .executing →
      Transition s (.deliver e) ({ s with pending := s.pending.erase e }.deliver (.event e) s.ip)
  /-- INIT# or RESET#. -/
  | start {e' : Event} (e : Event) (v : StartValues) : s.run = .executing →
      Transition s (.deliver e') (s.start e v)
  /-- The return of the latest handler. -/
  | handlerReturn {f : Frame} {rest : List Frame} : s.run = .executing → s.frames = f :: rest →
      Transition s .handlerReturn (s.handlerReturn f rest)
  /-- A change of the interrupts held back, which during a wait only releases some. -/
  | holdBack {held : List Nat} (held' : List Nat) : s.run = .executing ∨ held' ⊆ s.heldBack →
      Transition s (.holdBack held) { s with heldBack := held' }
  /-- A write of IA32_MISC_ENABLE's bit. -/
  | miscEnable (enabled : Bool) :
      Transition s (.writeMiscEnable enabled) { s with miscEnableMonitor := enabled }
  /-- An instruction outside this spec. -/
  | enclosing (g : Gprs) (ip : Word64) (c : Control) : s.run = .executing →
      Transition s (.enclosing g ip c) { (s.setGprs g).setControl c with ip := ip }

/-- The run state is executing or waiting. -/
theorem Run.executing_or_waiting : ∀ r : Run, r = .executing ∨ ∃ h e n, r = .waiting h e n
  | .executing => .inl rfl
  | .waiting h e n => .inr ⟨h, e, n, rfl⟩

/-! ### Each turn is a transition -/

/-- The processor's fetch. -/
theorem fetchExec_transition {s t : State} (hr : s.run = .executing) (h : s.fetchExec = .next t) :
    Transition s .core t := by
  obtain ⟨i, rest, hd, hx⟩ := fetchExec_next h
  have hbytes := decode_eq_ok.mp hd
  cases i with
  | mwait =>
    obtain ⟨hg, ⟨c, hc, rfl⟩ | ⟨n, hc, hn, rfl⟩⟩ := execMwait_next hx
    · exact .raise hr hc
    · obtain ⟨d, hd⟩ | ⟨hm, d, hd⟩ := mwaitIssue_cases s n <;> rw [hd]
      · exact .complete n d hr
      · exact .wait d hr hm hbytes (passesMwaitChecks_iff.mpr ⟨hg, hc⟩) hn
  | monitor =>
    obtain ⟨_, _, n, _, rfl⟩ := execMonitor_next hx
    exact .monitor _ _ hr hbytes

/-- The processor's turn. -/
theorem coreTurn_transition {s t : State} (h : s.coreTurn = .next t) : Transition s .core t := by
  obtain hr | ⟨hint, e, n, hr⟩ := s.run.executing_or_waiting
  · rw [coreTurn_executing hr] at h
    exact fetchExec_transition hr h
  · rw [coreTurn_waiting hr] at h
    cases h
    split
    · exact .exit hr
    · exact .idle _

/-- A store by the waiting processor itself does nothing. -/
theorem storeTurn_self_waiting {s : State} (hr : s.run ≠ .executing) (addr : Nat) (data : List Byte) (noticed : Bool) :
    s.storeTurn .self addr data noticed = s := by
  simp [State.storeTurn, hr]

/-- Every other store writes its bytes, and triggers the monitor where it hits the armed range and is or must be
noticed. -/
theorem storeTurn_eq {s : State} {agent : Agent} (h : agent = .self → s.run = .executing) (addr : Nat)
    (data : List Byte) (noticed : Bool) :
    s.storeTurn agent addr data noticed =
      { s with
        mem := s.mem.writeBytes addr data
        stored := noteStored s.stored ((List.range data.length).map (addr + ·))
        mon := if s.mon.hitBy addr data.length ∧ (s.storeMustTrigger agent ∨ noticed) then .idle else s.mon } :=
  if_neg fun ⟨ha, hr⟩ => hr (h ha)

/-- A store. -/
theorem storeTurn_transition (s : State) (agent : Agent) (addr : Nat) (data : List Byte) (noticed : Bool) :
    Transition s (.store agent addr data noticed) (s.storeTurn agent addr data noticed) := by
  by_cases h : agent = .self → s.run = .executing
  · rw [storeTurn_eq h]
    exact .store _ (by split <;> simp)
  · obtain ⟨rfl, hr⟩ := Classical.not_imp.mp h
    rw [storeTurn_self_waiting hr]
    exact .idle _

/-- The implementation's wake. -/
theorem implWake_waiting {s : State} {h : Word32} {e : Bool} {n : Word64} (hr : s.run = .waiting h e n) :
    s.implWake = s.complete n := by
  simp [State.implWake, hr]

/-- A delivery at the boundary. -/
theorem deliverTurn_transition {s t : State} {e : Event} (h : s.deliverTurn e = .next t) :
    Transition s (.deliver e) t := by
  obtain rfl | ⟨hr, _, rfl | rfl | rfl⟩ := deliverTurn_next h
  · exact .idle _
  · exact .start _ _ hr
  · exact .start _ _ hr
  · exact .deliver _ hr

/-- A change of the interrupts held back. -/
theorem holdBackTurn_transition (s : State) (held : List Nat) :
    Transition s (.holdBack held) (s.holdBackTurn held) := by
  unfold State.holdBackTurn
  split
  · exact .holdBack _ (.inl ‹_›)
  · exact .holdBack _ (.inr (List.filter_subset_self _))

/-- Every turn with a next state is a transition. -/
theorem turn_transition {s t : State} {turn : Turn} (h : s.turn turn = .next t) : Transition s turn t := by
  cases turn with
  | core => exact coreTurn_transition h
  | deliver e => exact deliverTurn_transition h
  | arrive e => cases h; exact .arrive e
  | store agent addr data noticed => cases h; exact storeTurn_transition s agent addr data noticed
  | load agent addr => cases h; exact .idle _
  | implWake =>
    cases h
    unfold State.implWake
    split
    · exact .exit ‹_›
    · exact .idle _
  | handlerReturn =>
    cases h
    obtain h | ⟨f, rest, hr, hf, h⟩ := returnTurn_cases s <;> rw [h]
    · exact .idle _
    · exact .handlerReturn hr hf
  | holdBack held => cases h; exact holdBackTurn_transition s held
  | writeMiscEnable enabled =>
    cases h
    unfold State.miscEnableTurn
    split
    · exact .miscEnable enabled
    · exact .idle _
  | enclosing g ip c =>
    cases h
    unfold State.enclosingTurn
    split
    · exact .enclosing g ip c ‹_›
    · exact .idle _

/-- Every step with a next state is a transition from the state with the turn used. -/
theorem step_transition {s t : State} (h : step s = .next t) : Transition s.afterTurn s.nextTurn t := by
  obtain ⟨_, _, hturn⟩ := step_next h
  exact turn_transition hturn

/-! ### What holds of every transition -/

/-- R6: no transition writes a parameter. -/
theorem Transition.params {s t : State} {turn : Turn} (h : Transition s turn t) : t.params = s.params := by
  cases h <;> rfl

/-- R26: no transition but that of MONITOR arms the monitor. -/
theorem Transition.mon {s t : State} {turn : Turn} (h : Transition s turn t) :
    t.mon = s.mon ∨ t.mon = .idle
      ∨ (turn = .core ∧ s.run = .executing ∧ ∃ rest, s.fetchBytes = encode .monitor ++ rest) := by
  cases h with
  | exit _ => exact .inr (.inl rfl)
  | complete _ _ _ => exact .inr (.inl rfl)
  | monitor _ _ hr hbytes => exact .inr (.inr ⟨rfl, hr, _, hbytes⟩)
  | store _ hm => exact hm.imp_right .inl
  | start _ _ _ => exact .inr (.inl rfl)
  | _ => exact .inl rfl

/-- R27, R33: a transition of an executing processor into the wait is that of an MWAIT that passes its checks with the
monitor armed. -/
theorem Transition.executes {s t : State} {turn : Turn} (h : Transition s turn t) (hr : s.run = .executing) :
    t.run = .executing ∨ (turn = .core ∧ s.mon ≠ .idle ∧ s.PassesMwaitChecks
      ∧ ∃ rest, s.fetchBytes = encode .mwait ++ rest) := by
  cases h with
  | exit _ => exact .inl rfl
  | complete _ _ _ => exact .inl rfl
  | wait _ _ hm hbytes hp _ => exact .inr ⟨rfl, hm, hp, _, hbytes⟩
  | start _ _ _ => exact .inl rfl
  | _ => exact .inl hr

/-- Writing cells leaves every address it does not note, and loses no note. -/
theorem writeCells_noted (cs : List Host.Cell) (m : Memory) (stored : List Nat) :
    (∀ a ∉ noteStored stored (cs.map Prod.fst), (m.writeCells cs).read a = m.read a)
      ∧ ∀ a ∈ stored, a ∈ noteStored stored (cs.map Prod.fst) := by
  refine ⟨fun a ha => Memory.read_writeCells_other cs m fun hcs => ha ?_, fun a ha => ?_⟩
  · exact (mem_noteStored _ _ a).mpr (.inr hcs)
  · exact (mem_noteStored _ _ a).mpr (.inl ha)

/-- A store leaves every address it does not note, and loses no note. -/
theorem writeBytes_noted (data : List Byte) (addr : Nat) (m : Memory) (stored : List Nat) :
    (∀ a ∉ noteStored stored ((List.range data.length).map (addr + ·)), (m.writeBytes addr data).read a = m.read a)
      ∧ ∀ a ∈ stored, a ∈ noteStored stored ((List.range data.length).map (addr + ·)) := by
  refine ⟨fun a ha => Memory.read_writeBytes_other data m ?_, fun a ha => ?_⟩
  · by_contra hin
    refine ha ((mem_noteStored _ _ a).mpr (.inr (List.mem_map.mpr ⟨a - addr, ?_, ?_⟩)))
    · exact List.mem_range.mpr (by omega)
    · show addr + (a - addr) = a
      omega
  · exact (mem_noteStored _ _ a).mpr (.inl ha)

/-- R52: a transition changes a byte only where it notes the address, and loses no note. -/
theorem Transition.noted {s t : State} {turn : Turn} (h : Transition s turn t) :
    (∀ a ∉ t.stored, t.mem.read a = s.mem.read a) ∧ ∀ a ∈ s.stored, a ∈ t.stored := by
  cases h with
  | raise _ _ => exact writeCells_noted _ _ _
  | store _ _ => exact writeBytes_noted _ _ _ _
  | deliver _ _ => exact writeCells_noted _ _ _
  | start _ _ _ => exact writeCells_noted _ _ _
  | handlerReturn _ _ => exact writeCells_noted _ _ _
  | _ => exact ⟨fun _ _ => rfl, fun _ => id⟩

/-! ### The invariant -/

/-- A mode that is entered only where the processor has it is one the processor has. -/
theorem hasMode_setControl {p : Params} {old new : Mode} (h : p.hasMode old = true) :
    p.hasMode (if p.hasMode new = true then new else old) = true := by
  split <;> assumption

/-- An executing processor has no record of a wait to be true. -/
theorem State.Inv.of_executing {t : State} (hr : t.run = .executing) (hm : t.mem.wf) (hp : t.pending.Nodup)
    (hmode : t.params.hasMode t.mode = true) : t.Inv := by
  have hno : ∀ {h e n}, t.run ≠ .waiting h e n := fun hw => by rw [hr] at hw; cases hw
  exact ⟨hm, hp, hmode, fun _ _ _ hw => absurd hw hno, fun _ _ _ hw => absurd hw hno, fun _ _ _ hw => absurd hw hno,
    fun _ _ hw => absurd hw hno⟩

/-- The begin of a wait after the checks records what is true of the registers. -/
theorem State.Inv.enterWait {s : State} {n : Word64} (hs : s.Inv) (hsup : s.ExtensionSupported)
    (hn : n.toNat = s.ip.toNat + 3) (d : Nat) : { s.enterWait n with draws := d }.Inv where
  memWf := hs.memWf
  pendingSet := hs.pendingSet
  modeExists := hs.modeExists
  waitHint := fun _ _ _ hw => by cases hw; rfl
  waitExt := fun _ _ _ hw => by cases hw; rfl
  waitNext := fun _ _ _ hw => by cases hw; exact hn
  waitSupported := fun _ _ hw => by
    have hext : s.extIntBrk = true := (Run.waiting.inj hw).2.1
    exact hsup (by simpa [extIntBrk_eq] using hext)

/-- Every transition keeps the invariant. -/
theorem Transition.keeps_inv {s t : State} {turn : Turn} (h : Transition s turn t) (hs : s.Inv) : t.Inv := by
  have hcells := fun cs => Memory.writeCells_wf cs s.mem hs.memWf
  cases h with
  | idle _ => exact hs
  | exit _ => exact .of_executing rfl hs.memWf hs.pendingSet hs.modeExists
  | raise hr _ => exact .of_executing hr (hcells _) hs.pendingSet (hasMode_setControl hs.modeExists)
  | complete _ _ _ => exact .of_executing rfl hs.memWf hs.pendingSet hs.modeExists
  | wait d _ _ _ hp hn => exact hs.enterWait hp.supported ((nextIp_eq_some (pointerBits_le s)).mp hn).2 d
  | monitor _ _ hr _ => exact .of_executing hr hs.memWf hs.pendingSet hs.modeExists
  | arrive e => exact { hs with pendingSet := hs.pendingSet.insert }
  | store _ _ => exact { hs with memWf := Memory.writeBytes_wf _ _ _ hs.memWf }
  | deliver e hr => exact .of_executing hr (hcells _) (hs.pendingSet.erase e) (hasMode_setControl hs.modeExists)
  | start e v _ =>
    exact .of_executing rfl (hcells _) ((eventSet_nodup _).erase e) (hasMode_setControl hs.modeExists)
  | handlerReturn hr _ => exact .of_executing hr (hcells _) hs.pendingSet (hasMode_setControl hs.modeExists)
  | holdBack _ _ => exact { hs with }
  | miscEnable _ => exact { hs with }
  | enclosing _ _ _ hr => exact .of_executing hr hs.memWf hs.pendingSet (hasMode_setControl hs.modeExists)

/-- Using a turn keeps the invariant, which does not speak of the schedule. -/
theorem State.Inv.afterTurn {s : State} (hs : s.Inv) : s.afterTurn.Inv := { hs with }

end Sys2Proof.Machine

namespace Sys2Proof

open Machine

/-- Settles O59: a step is a transition after the turn is used, and both keep the invariant. -/
theorem everyStepKeepsTheInvariant : Obligations.EveryStepKeepsTheInvariant := fun _ _ hs h =>
  (step_transition h).keeps_inv hs.afterTurn

/-- Settles O58: the reset state executes, with nothing in memory and nothing pending, in real-address mode. -/
theorem resetMeetsTheInvariant : Obligations.ResetMeetsTheInvariant :=
  .of_executing rfl List.Pairwise.nil List.nodup_nil rfl

/-- Settles O57: these are two fields of the reset state. -/
theorem resetExecutesWithMonitorIdle : Obligations.ResetExecutesWithMonitorIdle := ⟨rfl, rfl⟩

/-- Settles O55: no transition writes a parameter. -/
theorem parametersAreFixed : Obligations.ParametersAreFixed := fun _ _ h => (step_transition h).params

/-- Settles O43: every transition notes what it changes. -/
theorem memoryChangesOnlyWhereNoted : Obligations.MemoryChangesOnlyWhereNoted := fun _ _ h =>
  (step_transition h).noted

/-- Settles O35: the one transition into the wait contradicts each of the four conditions. -/
theorem onlyMwaitEntersTheWait : Obligations.OnlyMwaitEntersTheWait := by
  intro s t hr h hwhy
  obtain hex | ⟨hcore, harmed, hp, hbytes⟩ := (step_transition h).executes hr
  · exact hex
  · have hpasses : s.PassesMwaitChecks := hp.congr rfl rfl
    obtain hturn | hidle | hfail | hother := hwhy
    · exact absurd hcore hturn
    · exact absurd hidle harmed
    · exact absurd hpasses hfail
    · exact absurd hbytes hother

/-- Settles O36: the one transition that arms contradicts each of the three conditions. -/
theorem onlyMonitorArms : Obligations.OnlyMonitorArms := by
  intro s t h hwhy
  obtain hsame | hidle | ⟨hcore, hr, hbytes⟩ := (step_transition h).mon
  · exact .inl hsame
  · exact .inr hidle
  · obtain hturn | hrun | hother := hwhy
    · exact absurd hcore hturn
    · exact absurd hr hrun
    · exact absurd hbytes hother

end Sys2Proof
end

section
/-! PROOF. The wait and its end (40_mwait.md R93 to R97, R108; 10_state.md R27): what a step of a waiting processor can
do, and when it must be the exit. -/

namespace Sys2Proof.Machine

/-- What a step that does not end a wait keeps: the record, the registers, and every reason to leave. -/
structure KeepsWaiting (s t : State) : Prop where
  run : t.run = s.run
  ip : t.ip = s.ip
  rax : t.rax = s.rax
  rcx : t.rcx = s.rcx
  edx : t.edx = s.edx
  params : t.params = s.params
  intFlag : t.intFlag = s.intFlag
  cpl : t.cpl = s.cpl
  mode : t.mode = s.mode
  frames : t.frames = s.frames
  turns : t.turns = s.turns
  monIdle : s.mon = .idle → t.mon = .idle
  pending : ∀ v ∈ s.pending, v ∈ t.pending
  heldBack : t.heldBack ⊆ s.heldBack

/-- Doing nothing keeps the wait. -/
theorem KeepsWaiting.refl (s : State) : KeepsWaiting s s :=
  ⟨rfl, rfl, rfl, rfl, rfl, rfl, rfl, rfl, rfl, rfl, rfl, id, fun _ => id, List.Subset.refl _⟩

/-- A transition of a waiting processor is the exit step or keeps the wait. -/
theorem Transition.of_waiting {s t : State} {turn : Turn} {h : Word32} {e : Bool} {n : Word64}
    (hr : s.run = .waiting h e n) (ht : Transition s turn t) : t = s.complete n ∨ KeepsWaiting s t := by
  have hno : s.run ≠ .executing := by simp [hr]
  have hrefl := KeepsWaiting.refl s
  cases ht with
  | idle _ => exact .inr hrefl
  | exit hr' =>
    obtain ⟨_, _, rfl⟩ := Run.waiting.inj (hr.symm.trans hr')
    exact .inl rfl
  | arrive v => exact .inr { hrefl with pending := fun _ => List.mem_insert_of_mem }
  | store mon hm => exact .inr { hrefl with monIdle := fun hs => hm.elim (·.trans hs) id }
  | holdBack held hheld => exact .inr { hrefl with heldBack := hheld.resolve_left hno }
  | miscEnable _ => exact .inr { hrefl with }
  | _ => exact absurd ‹s.run = .executing› hno

/-- A step of a waiting processor is the exit step or keeps the wait. -/
theorem step_waiting {s t : State} {h : Word32} {e : Bool} {n : Word64} (hr : s.run = .waiting h e n)
    (hs : step s = .next t) : t = s.afterTurn.complete n ∨ KeepsWaiting s.afterTurn t :=
  (step_transition hs).of_waiting (s := s.afterTurn) hr

/-- A step that keeps the wait keeps a deliverable interrupt deliverable. -/
theorem KeepsWaiting.deliverable {s t : State} (hk : KeepsWaiting s t) {i : Nat} (hd : s.deliverable i = true) :
    t.deliverable i = true := by
  simp only [State.deliverable, Bool.and_eq_true, Bool.not_eq_true', List.contains_eq_mem, decide_eq_false_iff_not]
    at hd ⊢
  exact ⟨hk.intFlag.trans hd.1, fun hi => hd.2 (hk.heldBack hi)⟩

/-- A step that keeps the wait keeps what an event obliges to. -/
theorem KeepsWaiting.breaksWait {s t : State} (hk : KeepsWaiting s t) {ext : Bool} {v : Event}
    (hv : s.breaksWait ext v = true) : t.breaksWait ext v = true := by
  cases v with
  | extInt i =>
    obtain hd | hext := Bool.or_eq_true_iff.mp hv
    · exact Bool.or_eq_true_iff.mpr (.inl (hk.deliverable hd))
    · exact Bool.or_eq_true_iff.mpr (.inr hext)
  | _ => rfl

/-- A step that keeps the wait keeps a duty. -/
theorem KeepsWaiting.duty {s t : State} (hk : KeepsWaiting s t) (hd : s.duty = true) : t.duty = true := by
  obtain hr | ⟨h, e, n, hr⟩ := s.run.executing_or_waiting
  · simp [duty_executing hr] at hd
  · rw [duty_waiting (hk.run.trans hr)]
    obtain hm | ⟨v, hv, hb⟩ := (duty_waiting hr).mp hd
    · exact .inl (hk.monIdle hm)
    · exact .inr ⟨v, hk.pending v hv, hk.breaksWait hb⟩

/-- A waiting processor always has a step. -/
theorem step_waiting_exists {s : State} {h : Word32} {e : Bool} {n : Word64} (hr : s.run = .waiting h e n)
    (hg : s.params.guest = false) : ∃ t, step s = .next t := by
  rw [step_eq_turn hg (pastBinit_waiting hr)]
  cases s.nextTurn with
  | core => exact ⟨_, coreTurn_waiting (s := s.afterTurn) hr⟩
  | deliver v => exact ⟨s.afterTurn, if_neg fun hc => by simp [hr] at hc⟩
  | _ => exact ⟨_, rfl⟩

/-- The waiting processor's own turn is the exit step exactly under a duty (40_mwait.md R108). -/
theorem step_core_waiting {s : State} {h : Word32} {e : Bool} {n : Word64} (hr : s.run = .waiting h e n)
    (hg : s.params.guest = false) (ht : s.nextTurn = .core) :
    step s = .next (if s.duty then s.afterTurn.complete n else s.afterTurn) := by
  rw [step_eq_turn hg (pastBinit_waiting hr), ht]
  exact coreTurn_waiting (s := s.afterTurn) hr

/-- Under a duty the waiting processor's own turn is the exit step. -/
theorem step_exits {s : State} {h : Word32} {e : Bool} {n : Word64} (hr : s.run = .waiting h e n)
    (hg : s.params.guest = false) (ht : s.nextTurn = .core) (hd : s.duty = true) :
    step s = .next (s.afterTurn.complete n) := by
  rw [step_core_waiting hr hg ht, if_pos hd]

/-- Without a duty the waiting processor's own turn leaves it waiting. -/
theorem step_waits {s : State} {h : Word32} {e : Bool} {n : Word64} (hr : s.run = .waiting h e n)
    (hg : s.params.guest = false) (ht : s.nextTurn = .core) (hd : s.duty = false) : step s = .next s.afterTurn := by
  rw [step_core_waiting hr hg ht, hd, if_neg Bool.false_ne_true]

/-- R93: each unconditional event breaks a wait. -/
theorem breaksWait_unconditional (s : State) (ext : Bool) {v : Event}
    (hv : v ∈ [Event.nmi, .smi, .debugException, .machineCheck, .binit, .init, .reset]) :
    s.breaksWait ext v = true := by
  cases v with
  | extInt i => simp at hv
  | _ => rfl

/-- R94: when an external interrupt breaks a wait. -/
theorem breaksWait_extInt {s : State} {ext : Bool} {i : Nat} :
    s.breaksWait ext (.extInt i) = true ↔ (s.intFlag = true ∧ i ∉ s.heldBack) ∨ ext = true := by
  simp [State.breaksWait, State.deliverable]

end Sys2Proof.Machine

namespace Sys2Proof

open Machine

/-- Settles O26: a step that keeps the wait keeps the run state, so the step was the exit. -/
theorem everyExitLeadsToNext : Obligations.EveryExitLeadsToNext := by
  intro s t h e n hr hs hex
  obtain rfl | hk := step_waiting hr hs
  · rfl
  · have hw : t.run = .waiting h e n := hk.run.trans hr
    rw [hex] at hw
    cases hw

/-- Settles O27: each of the events is a duty. -/
theorem dutyEventsEndTheWait : Obligations.DutyEventsEndTheWait := by
  intro s h e n hr hg ht hwhy
  refine step_exits hr hg ht ((duty_waiting hr).mpr ?_)
  obtain hm | ⟨v, hv, hlist⟩ := hwhy
  · exact .inl hm
  · exact .inr ⟨v, hv, breaksWait_unconditional s e hlist⟩

/-- Settles O28: `breaksWait_extInt` says which external interrupts are a duty; where no pending event is one, there is
no duty. -/
theorem externalInterruptsEndTheWaitIfDeliverableOrAsked :
    Obligations.ExternalInterruptsEndTheWaitIfDeliverableOrAsked := by
  intro s h e n hr hg ht
  refine ⟨fun ⟨i, hi, hwhy⟩ => ?_, fun hm he hall => ?_⟩
  · exact step_exits hr hg ht ((duty_waiting hr).mpr (.inr ⟨_, hi, breaksWait_extInt.mpr hwhy⟩))
  · refine step_waits hr hg ht (Bool.eq_false_iff.mpr fun hd => ?_)
    obtain hidle | ⟨v, hv, hb⟩ := (duty_waiting hr).mp hd
    · exact hm hidle
    · obtain ⟨i, rfl, hmask⟩ := hall v hv
      rw [breaksWait_extInt, he] at hb
      simp only [Bool.false_eq_true, or_false] at hb
      exact hmask.elim (by simp [hb.1]) hb.2

/-- Settles O30: the wake turn does not ask for a duty. -/
theorem libertyExitFromEveryWait : Obligations.LibertyExitFromEveryWait := by
  intro s h e n rest hr hg
  have hb : { s with turns := .implWake :: rest }.pastBinit = false := pastBinit_waiting hr
  rw [step_eq_turn (s := { s with turns := .implWake :: rest }) hg hb]
  exact congrArg _ (implWake_waiting (s := { s with turns := rest }) hr)

/-- Settles O31: a step that is not the exit keeps every reason to leave. -/
theorem dutyPersistsUntilTheExit : Obligations.DutyPersistsUntilTheExit := by
  intro s t h e n hr hs
  obtain rfl | hk := step_waiting hr hs
  · exact .inl rfl
  · exact .inr ⟨hk.run.trans hr, hk.monIdle, hk.pending, fun _ => hk.deliverable, hk.duty⟩

/-- Settles O32, by induction on the schedule: each turn is the exit or leaves the duty standing, and when the schedule
is used up the turn is the processor's own. -/
theorem dutyExitIsTakenWithinTheSchedule : Obligations.DutyExitIsTakenWithinTheSchedule := by
  intro s h e n hr hg hd
  induction hts : s.turns generalizing s with
  | nil =>
    have hstep := step_exits hr hg (by simp [State.nextTurn, hts]) hd
    exact ⟨1, _, by simp, run_succ hstep 0, rfl, rfl, rfl, ⟨rfl, rfl, rfl, rfl, rfl⟩⟩
  | cons turn rest ih =>
    obtain ⟨t, hstep⟩ := step_waiting_exists hr hg
    obtain rfl | hk := step_waiting hr hstep
    · exact ⟨1, _, by simp, run_succ hstep 0, rfl, rfl, rfl, ⟨rfl, rfl, rfl, rfl, rfl⟩⟩
    · have hrest : t.turns = rest := hk.turns.trans (by simp [hts])
      obtain ⟨k, u, hle, hrun, hex, hm, hip, hu⟩ :=
        ih t (hk.run.trans hr) ((congrArg Params.guest hk.params).trans hg) (hk.duty hd) hrest
      refine ⟨k + 1, u, by simpa using hle, (run_succ hstep k).trans hrun, hex, hm, hip, ?_⟩
      exact ⟨hu.rax.trans hk.rax, hu.rcx.trans hk.rcx, hu.edx.trans hk.edx, rfl, hu.params.trans hk.params⟩

/-- Settles O33, by induction on the number of steps: the turn is the processor's own and gives the state itself. -/
theorem waitWithoutDutyIsAHang : Obligations.WaitWithoutDutyIsAHang := by
  intro s h e n hr hg hd hts k
  have hself : s.afterTurn = s := by rw [State.afterTurn, hts, List.tail_nil, ← hts]
  have hstep : step s = .next s := by
    conv_rhs => rw [← hself]
    exact step_waits hr hg (by simp [State.nextTurn, hts]) hd
  induction k with
  | zero => rfl
  | succ k ih => rw [run_succ hstep, ih]

/-- Settles O34: neither the exit nor a step that keeps the wait writes these components. -/
theorem waitingProcessorIsQuiet : Obligations.WaitingProcessorIsQuiet := by
  intro s t h e n hr hs
  obtain rfl | hk := step_waiting hr hs
  · exact ⟨rfl, rfl, rfl, ⟨rfl, rfl, rfl⟩, rfl, .inl rfl⟩
  · exact ⟨hk.rax, hk.rcx, hk.edx, ⟨hk.intFlag, hk.cpl, hk.mode⟩, hk.frames,
      .inr ⟨hk.run.trans hr, hk.ip⟩⟩

end Sys2Proof
end

section
/-! PROOF. Accesses by the agents and the monitored range (20_memory.md R45, R46, R54; 40_mwait.md R96). -/

namespace Sys2Proof.Machine

/-! ### The turn at the head of the schedule -/

section
variable {s : State} {turn : Turn} {rest : List Turn}

/-- Using the turn at the head of the schedule leaves the rest. -/
theorem afterTurn_of_turns (hts : s.turns = turn :: rest) : s.afterTurn = { s with turns := rest } := by
  rw [State.afterTurn, hts, List.tail_cons]

/-- The step is the turn at the head of the schedule. -/
theorem step_of_turns (hts : s.turns = turn :: rest) (hg : s.params.guest = false) (hb : s.pastBinit = false) :
    step s = s.afterTurn.turn turn := by
  rw [step_eq_turn hg hb, State.nextTurn, hts, List.headD_cons]

/-- A step with a next state is the turn at the head of the schedule. -/
theorem turn_of_step {t : State} (hts : s.turns = turn :: rest) (h : step s = .next t) :
    s.afterTurn.turn turn = .next t := by
  obtain ⟨hg, hb, _⟩ := step_next h
  rwa [step_of_turns hts hg hb] at h

end

/-! ### The store turn -/

section
variable {s : State} (agent : Agent) (addr : Nat) (data : List Byte) (noticed : Bool)

/-- What the turn of a store leaves as it was before the turn. -/
theorem storeTurn_frame {s t : State} (ht : t = s.afterTurn.storeTurn agent addr data noticed) :
    SameRegisters s t ∧ SameControl s t ∧ t.ip = s.ip ∧ t.run = s.run ∧ t.pending = s.pending
      ∧ t.frames = s.frames ∧ t.turns = s.turns.tail := by
  subst ht
  unfold State.storeTurn
  split <;> exact ⟨⟨rfl, rfl, rfl, rfl, rfl⟩, ⟨rfl, rfl, rfl⟩, rfl, rfl, rfl, rfl, rfl⟩

/-- A store that hits the armed range triggers the monitor exactly if it must be noticed or is. -/
theorem storeTurn_mon_hit {range : List Nat} (hself : agent = .self → s.run = .executing) (hm : s.mon = .armed range)
    (hit : StoreHits range addr data.length) :
    (s.storeTurn agent addr data noticed).mon =
      if s.storeMustTrigger agent ∨ noticed then .idle else .armed range := by
  simp [storeTurn_eq hself, hm, hitBy_armed.mpr hit]

/-- A store that misses the armed range leaves the monitor. -/
theorem storeTurn_mon_miss {range : List Nat} (hm : s.mon = .armed range)
    (hmiss : ¬ StoreHits range addr data.length) : (s.storeTurn agent addr data noticed).mon = .armed range := by
  unfold State.storeTurn
  split
  · exact hm
  · exact (if_neg fun ⟨hit, _⟩ => hmiss (hitBy_armed.mp (hm ▸ hit))).trans hm

end

/-- While the processor executes, a store by another agent of either class must be noticed. -/
theorem storeMustTrigger_executing {s : State} {agent : Agent} (hr : s.run = .executing) (ha : agent ≠ .self) :
    s.storeMustTrigger agent = true := by
  cases agent with
  | self => exact absurd rfl ha
  | otherProcessor => rfl
  | nonProcessor => simp [State.storeMustTrigger, hr]

/-- During a wait, a non-processor agent's store must be noticed where the hint makes it a duty. -/
theorem storeMustTrigger_device {s : State} {h : Word32} {e : Bool} {n : Word64} (hr : s.run = .waiting h e n) :
    s.storeMustTrigger .nonProcessor = deviceStoreIsDuty s.params h := by
  simp [State.storeMustTrigger, hr]

/-- The target field of a hint, by its number. -/
theorem hintTarget_toNat (h : Word32) : (hintTarget h).toNat = h.toNat / 16 % 16 := by
  simp [hintTarget, BitVec.extractLsb'_toNat, Nat.shiftRight_eq_div_pow]

/-- The reserved field of a hint is 0 exactly where the hint is below 256. -/
theorem hintReserved_eq_zero (h : Word32) : hintReserved h = 0 ↔ h.toNat < 256 := by
  have hlt := h.isLt
  have hzero : (0 : BitVec 24).toNat = 0 := rfl
  rw [← BitVec.toNat_inj, hzero]
  simp only [hintReserved, BitVec.extractLsb'_toNat, Nat.shiftRight_eq_div_pow]
  omega

/-- The hints the processor acts on, by their number (40_mwait.md R101). -/
theorem hintSupported_iff {p : Params} {h : Word32} :
    hintSupported p h = true ↔ h = 0 ∨ (p.cpuid05Ext = true ∧ h.toNat < 256 ∧ h ∈ p.supportedHints) := by
  simp only [hintSupported, Bool.or_eq_true, Bool.and_eq_true, decide_eq_true_eq, hintReserved_eq_zero,
    List.contains_eq_mem, and_assoc]

/-- The deep targets, by their number. -/
theorem isDeepTarget_iff (h : Word32) :
    isDeepTarget (hintTarget h) = true ↔ 1 ≤ h.toNat / 16 % 16 ∧ h.toNat / 16 % 16 ≤ 14 := by
  simp only [isDeepTarget, hintTarget_toNat, Bool.and_eq_true, decide_eq_true_eq]

/-- When a device's store is a duty: the switch is on, the processor acts on the hint, and its target is not deep
(40_mwait.md R96). -/
theorem deviceStoreIsDuty_iff {p : Params} {h : Word32} : deviceStoreIsDuty p h = true ↔
    p.nonprocStoreIsDutyAtC1 = true
      ∧ (h = 0 ∨ (p.cpuid05Ext = true ∧ h.toNat < 256 ∧ h ∈ p.supportedHints))
      ∧ ¬ (1 ≤ h.toNat / 16 % 16 ∧ h.toNat / 16 % 16 ≤ 14) := by
  rw [← hintSupported_iff, ← isDeepTarget_iff]
  simp only [deviceStoreIsDuty, Bool.and_eq_true, Bool.not_eq_true', and_assoc, Bool.not_eq_true]

/-- When it is not: the switch is off, the target is deep, or the processor does not act on the hint. -/
theorem deviceStoreIsDuty_eq_false {p : Params} {h : Word32} : deviceStoreIsDuty p h = false ↔
    p.nonprocStoreIsDutyAtC1 = false ∨ (1 ≤ h.toNat / 16 % 16 ∧ h.toNat / 16 % 16 ≤ 14)
      ∨ (h ≠ 0 ∧ (p.cpuid05Ext = false ∨ 256 ≤ h.toNat ∨ h ∉ p.supportedHints)) := by
  rw [← Bool.not_eq_true, deviceStoreIsDuty_iff, ← Bool.not_eq_true, ← Bool.not_eq_true, ← not_lt (a := h.toNat)]
  tauto

end Sys2Proof.Machine

namespace Sys2Proof

open Machine

/-- Settles O37: the store must be noticed, so the monitor goes idle, and an idle monitor lets no MWAIT wait. -/
theorem storeBeforeMwaitIsNotLost : Obligations.StoreBeforeMwaitIsNotLost := by
  intro s agent addr data noticed range rest hr hg hb ha hm hit hts
  obtain ⟨hregs, hctl, hip, hrun, _⟩ := storeTurn_frame (s := s) agent addr data noticed rfl
  have hidle := storeTurn_mon_hit (s := s.afterTurn) agent addr data noticed (fun h => absurd h ha) hm hit
  rw [if_pos (.inl (storeMustTrigger_executing (s := s.afterTurn) hr ha))] at hidle
  have hex := hrun.trans hr
  refine ⟨_, step_of_turns hts hg (pastBinit_notPending hb), hidle, hex, hregs, hctl, hip,
    fun u => exec_mwait_idle_executes hex hidle⟩

/-- Settles O38: the store must be noticed, the idle monitor is a duty, and the processor's turn is next. -/
theorem processorStoreEndsTheWait : Obligations.ProcessorStoreEndsTheWait := by
  intro s h e n addr data noticed range rest hr hg hm hit hts
  obtain ⟨hregs, hctl, _, hrun, _, _, hturns⟩ := storeTurn_frame (s := s) .otherProcessor addr data noticed rfl
  have hidle := storeTurn_mon_hit (s := s.afterTurn) .otherProcessor addr data noticed nofun hm hit
  rw [if_pos (.inl rfl)] at hidle
  have hwait := hrun.trans hr
  have hcore : (s.afterTurn.storeTurn .otherProcessor addr data noticed).nextTurn = .core := by
    simp [State.nextTurn, hturns, hts]
  refine ⟨_, _, step_of_turns hts hg (pastBinit_waiting hr), hidle, hrun,
    step_exits hwait ((congrArg Params.guest hregs.params).trans hg) hcore ((duty_waiting hwait).mpr (.inl hidle)),
    rfl, rfl, ⟨hregs.rax, hregs.rcx, hregs.edx, hregs.miscEnable, hregs.params⟩, ⟨hctl.intFlag, hctl.cpl, hctl.mode⟩⟩

/-- Settles O39: `deviceStoreIsDuty_iff` says when the store must be noticed; where it need not be, the turn decides. -/
theorem deviceStoreIsADutyOnlyAtShallowHints : Obligations.DeviceStoreIsADutyOnlyAtShallowHints := by
  intro s h e n addr data noticed range rest hr hg hm hit hts
  obtain ⟨_, _, _, hrun, _⟩ := storeTurn_frame (s := s) .nonProcessor addr data noticed rfl
  have hmon := storeTurn_mon_hit (s := s.afterTurn) .nonProcessor addr data noticed nofun hm hit
  rw [storeMustTrigger_device (s := s.afterTurn) hr, State.afterTurn_params] at hmon
  refine ⟨_, step_of_turns hts hg (pastBinit_waiting hr), hrun, fun hswitch htarget hacts => ?_, fun hopen => ?_⟩
  · have hduty : deviceStoreIsDuty s.params h = true := deviceStoreIsDuty_iff.mpr ⟨hswitch, hacts, by omega⟩
    rwa [if_pos (.inl hduty)] at hmon
  · simpa [deviceStoreIsDuty_eq_false.mpr hopen] using hmon

/-- Settles O40: nothing obliges the monitor to notice the processor's own store, and a waiting processor's store turn
does nothing. -/
theorem ownStoreMayTrigger : Obligations.OwnStoreMayTrigger := by
  intro s addr data noticed range rest hg hb hm hit hts
  have hstep := step_of_turns hts hg (pastBinit_notPending hb)
  refine ⟨fun hr => ⟨_, hstep, ?_⟩, fun hr => ?_⟩
  · have hmon := storeTurn_mon_hit (s := s.afterTurn) .self addr data noticed (fun _ => hr) hm hit
    simpa [State.storeMustTrigger] using hmon
  · exact hstep.trans (congrArg _ (storeTurn_self_waiting (s := s.afterTurn) hr addr data noticed))

/-- Settles O41: a store that misses is none the monitor looks at, and a load is none at all. -/
theorem otherAccessesLeaveTheMonitor : Obligations.OtherAccessesLeaveTheMonitor := by
  refine ⟨fun s t agent addr data noticed range rest hts hm hmiss h => ?_, fun s t agent addr rest hts h => ?_⟩
  · cases turn_of_step hts h
    exact storeTurn_mon_miss agent addr data noticed (s := s.afterTurn) hm hmiss
  · cases turn_of_step hts h
    rfl

/-- Settles O42: the store writes with `writeBytes`, whose reads are known, and touches nothing of the frame. -/
theorem storeWritesExactlyItsBytes : Obligations.StoreWritesExactlyItsBytes := by
  intro s t agent addr data noticed rest hts hself h
  have ht : t = s.afterTurn.storeTurn agent addr data noticed := (Host.Outcome.next.inj (turn_of_step hts h)).symm
  obtain ⟨hregs, hctl, hip, hrun, hpending, hframes, _⟩ := storeTurn_frame agent addr data noticed ht
  have hmem : t.mem = s.mem.writeBytes addr data := by
    rw [ht, storeTurn_eq (s := s.afterTurn) hself, State.afterTurn_mem]
  refine ⟨fun k hk => ?_, fun a ha => ?_, hregs, hctl, hip, hrun, hpending, hframes⟩
  · rw [hmem, Memory.read_writeBytes, if_pos (by omega), Nat.add_sub_cancel_left]
  · rw [hmem, Memory.read_writeBytes_other data s.mem ha]

end Sys2Proof
end

section
/-! PROOF. Events: arrival, delivery at a boundary, a handler's return, INIT# and RESET#, and the write of
IA32_MISC_ENABLE's bit (40_mwait.md R98, R99; 60_exceptions.md R142 to R149; 10_state.md R25, R28). -/

namespace Sys2Proof.Machine

/-- R136, R145: an event other than an external interrupt is unmasked, an external one by IF and the interrupts held
back. -/
theorem unmasked_of {s : State} {e : Event} (h : ∀ i, e = .extInt i → s.intFlag = true ∧ i ∉ s.heldBack) :
    s.unmasked e = true := by
  cases e with
  | extInt i => simpa [State.unmasked, State.deliverable] using h i rfl
  | _ => rfl

/-- An external interrupt is masked where IF = 0. -/
theorem unmasked_extInt_of_intFlag {s : State} (h : s.intFlag = false) (i : Nat) :
    s.unmasked (.extInt i) = false := by
  simp [State.unmasked, State.deliverable, h]

/-- What can be delivered obliges a waiting processor to leave (40_mwait.md R93, R94). -/
theorem breaksWait_of_unmasked {s : State} {e : Event} (h : s.unmasked e = true) (ext : Bool) :
    s.breaksWait ext e = true := by
  cases e with
  | extInt i => exact Bool.or_eq_true_iff.mpr (.inl h)
  | _ => rfl

/-- Nothing is delivered where the processor waits, the event is not pending, or it is masked. -/
theorem deliverTurn_refused {s : State} {e : Event}
    (h : s.run ≠ .executing ∨ e ∉ s.pending ∨ s.unmasked e = false) : s.deliverTurn e = .next s := by
  refine if_neg fun ⟨hr, he, hu⟩ => ?_
  obtain hrun | habs | hmask := h
  · exact hrun hr
  · exact habs he
  · rw [hu] at hmask
    cases hmask

/-- A pending unmasked event is delivered to an executing processor. -/
theorem deliverTurn_delivers {s : State} {e : Event} (hr : s.run = .executing) (he : e ∈ s.pending)
    (hu : s.unmasked e = true) : s.deliverTurn e = s.deliverEvent e :=
  if_pos ⟨hr, he, hu⟩

/-- The delivery of an event that is not BINIT#, INIT# or RESET# is one `Deliver` (60_exceptions.md R148). -/
theorem deliverEvent_ordinary {s : State} {e : Event} (he : e ∉ [Event.binit, .init, .reset]) :
    s.deliverEvent e = .next ({ s with pending := s.pending.erase e }.deliver (.event e) s.ip) := by
  cases e with
  | binit | init | reset => simp at he
  | _ => rfl

/-- A delivery turn of an executing processor with such an event pending and unmasked. -/
theorem step_delivers {s : State} {e : Event} {rest : List Turn} (hr : s.run = .executing)
    (hg : s.params.guest = false) (hb : Event.binit ∉ s.pending) (hord : e ∉ [Event.binit, .init, .reset])
    (he : e ∈ s.pending) (hu : s.unmasked e = true) (hts : s.turns = .deliver e :: rest) :
    step s = .next ({ s.afterTurn with pending := s.pending.erase e }.deliver (.event e) s.ip) := by
  rw [step_of_turns hts hg (pastBinit_notPending hb)]
  exact (deliverTurn_delivers (s := s.afterTurn) hr he hu).trans (deliverEvent_ordinary hord)

/-- At level 0 the write of IA32_MISC_ENABLE's bit changes that bit (10_state.md R25). -/
theorem miscEnableTurn_levelZero {s : State} (h : s.cpl = 0) (enabled : Bool) :
    s.miscEnableTurn enabled = { s with miscEnableMonitor := enabled } :=
  if_pos h

/-- At the other levels the write changes nothing (92_eei_decisions.md D27). -/
theorem miscEnableTurn_otherLevel {s : State} (h : s.cpl ≠ 0) (enabled : Bool) : s.miscEnableTurn enabled = s :=
  if_neg h

/-- The turn in which the latest handler returns (60_exceptions.md R149). -/
theorem step_returns {s : State} {f : Frame} {below : List Frame} {rest : List Turn} (hr : s.run = .executing)
    (hg : s.params.guest = false) (hb : Event.binit ∉ s.pending) (hf : s.frames = f :: below)
    (hts : s.turns = .handlerReturn :: rest) : step s = .next (s.afterTurn.handlerReturn f below) := by
  rw [step_of_turns hts hg (pastBinit_notPending hb)]
  simp [State.turn, State.returnTurn, hr, hf]

end Sys2Proof.Machine

namespace Sys2Proof

open Machine

/-- Settles O46: the arrival inserts into the list that stands for the set. -/
theorem arrivalAddsToThePendingSet : Obligations.ArrivalAddsToThePendingSet := by
  intro s t e rest hts h
  cases turn_of_step hts h
  rw [afterTurn_of_turns hts]
  exact ⟨fun v => List.mem_insert_iff, rfl⟩

/-- Settles O47: the turn is one `Deliver`, with the event erased before it. -/
theorem deliveryRecordsTheBoundary : Obligations.DeliveryRecordsTheBoundary := by
  intro s e rest hr hg hb hord he hmask hts
  exact ⟨_, step_delivers hr hg hb hord he (unmasked_of hmask) hts, rfl, rfl, ⟨rfl, rfl, rfl, rfl, rfl⟩, rfl, hr⟩

/-- Settles O48: in each of the cases the delivery turn finds nothing to do. -/
theorem maskedOrAbsentEventsAreNotDelivered : Obligations.MaskedOrAbsentEventsAreNotDelivered := by
  intro s t e rest hts hwhy h
  have hnone : s.afterTurn.deliverTurn e = .next s.afterTurn := by
    refine deliverTurn_refused (hwhy.imp_right (Or.imp_right ?_))
    rintro ⟨hif, i, rfl⟩
    exact unmasked_extInt_of_intFlag (s := s.afterTurn) hif i
  exact (Host.Outcome.next.inj (hnone.symm.trans (turn_of_step hts h))).symm

/-- Settles O29: the extension bit makes the interrupt a duty, the exit leaves it pending, and IF = 0 masks it at the
boundary. -/
theorem maskedInterruptWakesWithoutDelivery : Obligations.MaskedInterruptWakesWithoutDelivery := by
  intro s h n i rest hr hg hif hi hb hts
  have hd : s.duty = true := (duty_waiting hr).mpr (.inr ⟨_, hi, breaksWait_extInt.mpr (.inr rfl)⟩)
  have hnext : (s.afterTurn.complete n).turns = .deliver (.extInt i) :: rest := by simp [hts]
  refine ⟨_, step_exits hr hg (by simp [State.nextTurn, hts]) hd, rfl, rfl, hi, ?_⟩
  rw [step_of_turns hnext hg (pastBinit_notPending hb)]
  exact deliverTurn_refused (.inr (.inr (unmasked_extInt_of_intFlag (s := (s.afterTurn.complete n).afterTurn) hif i)))

/-- Settles O49: an unmasked event is a duty, so the first turn is the exit to `next`; the second is the delivery of O47
there. -/
theorem wakeEventIsDeliveredWithNext : Obligations.WakeEventIsDeliveredWithNext := by
  intro s h ext n e rest hr hg hb hord he hmask hts
  have hd : s.duty = true := (duty_waiting hr).mpr (.inr ⟨e, he, breaksWait_of_unmasked (unmasked_of hmask) ext⟩)
  have hexit := step_exits hr hg (by simp [State.nextTurn, hts]) hd
  obtain ⟨t, hdeliver, hframes, hpending, hregs, hmon, hrun⟩ :=
    deliveryRecordsTheBoundary (s.afterTurn.complete n) e rest rfl hg hb hord he hmask (by simp [hts])
  exact ⟨t, (run_succ hexit 1).trans (run_succ hdeliver 0), hframes, hrun, hmon, hpending,
    ⟨hregs.rax, hregs.rcx, hregs.edx, hregs.miscEnable, hregs.params⟩⟩

/-- Settles O51: the return takes the address from the latest frame, and the frame of a fault of MWAIT holds the address
of the MWAIT. -/
theorem returnLeadsToTheRecordedAddress : Obligations.ReturnLeadsToTheRecordedAddress := by
  refine ⟨fun s f below rest hr hg hb hf hts => ?_, fun s t h hf => ?_⟩
  · exact ⟨_, step_returns hr hg hb hf hts, rfl, hr, rfl, rfl, rfl⟩
  · obtain ⟨c, rfl⟩ := exec_mwait_raises h hf
    rfl

/-- Settles O50: SMI is one of the events of O49, and its frame is one of those of O51. -/
theorem noRestartAfterSmi : Obligations.NoRestartAfterSmi := by
  refine ⟨fun s h ext n rest hr hg hb hsmi hts => ?_, fun u n below rest hr hg hb hf hts => ?_⟩
  · obtain ⟨t, hrun, hframes, _⟩ :=
      wakeEventIsDeliveredWithNext s h ext n .smi rest hr hg hb (by decide) hsmi nofun hts
    exact ⟨t, hrun, hframes⟩
  · obtain ⟨v, hstep, hip, hex, hbelow, hmon, _⟩ :=
      returnLeadsToTheRecordedAddress.1 u _ below rest hr hg hb hf hts
    exact ⟨v, hstep, hex, hip, hbelow, hmon⟩

/-- Settles O53: either event starts the processor again, and is erased from a list without repeats. -/
theorem initAndResetLeaveExecutingAndIdle : Obligations.InitAndResetLeaveExecutingAndIdle := by
  intro s e rest hr hg hb hkind he hts
  have hu : s.unmasked e = true := unmasked_of fun i hi => by obtain rfl | rfl := hkind <;> cases hi
  obtain ⟨v, hstart⟩ : ∃ v, s.afterTurn.deliverEvent e = .next (s.afterTurn.start e v) := by
    obtain rfl | rfl := hkind <;> exact ⟨_, rfl⟩
  have hstep := (step_of_turns hts hg (pastBinit_notPending hb)).trans
    ((deliverTurn_delivers (s := s.afterTurn) hr he hu).trans hstart)
  exact ⟨_, hstep, rfl, rfl, (eventSet_nodup v.pending).not_mem_erase, rfl⟩

/-- Settles O54: the write asks for level 0 and for nothing else. -/
theorem miscEnableIsWrittenAtLevelZero : Obligations.MiscEnableIsWrittenAtLevelZero := by
  intro s t enabled rest hts h
  have ht : t = s.afterTurn.miscEnableTurn enabled := (Host.Outcome.next.inj (turn_of_step hts h)).symm
  refine ⟨fun hzero => ?_, fun hne => ?_⟩
  · rw [miscEnableTurn_levelZero (s := s.afterTurn) hzero, afterTurn_of_turns hts] at ht
    exact ⟨ht, by rw [ht]; rfl⟩
  · rwa [miscEnableTurn_otherLevel (s := s.afterTurn) hne, afterTurn_of_turns hts] at ht

end Sys2Proof
end

section
/-! PROOF. No rule reads the optimized state entered (10_state.md R29): a turn of two states that differ only in it
gives outcomes that differ at most in it. -/

namespace Sys2Proof.Machine

/-- The state with another record of the state entered. -/
def State.withEntered (x : Option Byte) (s : State) : State := { s with entered := x }

/-- An outcome with the record of the state entered cleared. -/
def forgetEntered : Host.Outcome State Fault Refusal → Host.Outcome State Fault Refusal
  | .next t => .next (t.withEntered none)
  | .fault r => .fault r
  | .refused r => .refused r

section
variable (x : Option Byte) (s : State)

/-! ### What the rules read is not the record -/

@[simp] theorem State.withEntered_mode : (s.withEntered x).mode = s.mode := rfl
@[simp] theorem State.withEntered_run : (s.withEntered x).run = s.run := rfl
@[simp] theorem State.withEntered_frames : (s.withEntered x).frames = s.frames := rfl
@[simp] theorem State.withEntered_draws : (s.withEntered x).draws = s.draws := rfl
@[simp] theorem State.withEntered_pending : (s.withEntered x).pending = s.pending := rfl
@[simp] theorem State.withEntered_fetchBytes : (s.withEntered x).fetchBytes = s.fetchBytes := rfl
@[simp] theorem State.withEntered_duty : (s.withEntered x).duty = s.duty := rfl

@[simp] theorem State.withEntered_unmasked (e : Event) : (s.withEntered x).unmasked e = s.unmasked e := by
  cases e <;> rfl

/-! ### Each turn -/

/-- The issue stage of MWAIT. -/
theorem mwaitIssue_withEntered (n : Word64) :
    ((s.withEntered x).mwaitIssue n).withEntered none = (s.mwaitIssue n).withEntered none := by
  obtain hm | ⟨range, hm⟩ := s.mon.idle_or_armed
  · rw [mwaitIssue_idle hm, mwaitIssue_idle (s := s.withEntered x) hm]
    rfl
  · rw [mwaitIssue_armed hm, mwaitIssue_armed (s := s.withEntered x) hm, State.withEntered_draws]
    cases Config.takesHint s.draws <;> rfl

/-- MWAIT. -/
theorem execMwait_withEntered : forgetEntered (execMwait (s.withEntered x)) = forgetEntered (execMwait s) := by
  cases hg : s.params.guest with
  | true => rw [execMwait_guest hg, execMwait_guest (s := s.withEntered x) hg]
  | false =>
    cases hc : s.mwaitCheck with
    | some c =>
      rw [execMwait_raises hg hc, execMwait_raises (s := s.withEntered x) hg hc]
      rfl
    | none =>
      cases hn : nextIp s.pointerBits s.ip 3 with
      | none => rw [execMwait_doesNotFit hg hc hn, execMwait_doesNotFit (s := s.withEntered x) hg hc hn]
      | some n =>
        have hp := passesMwaitChecks_iff.mpr ⟨hg, hc⟩
        rw [execMwait_passes hp hn, execMwait_passes (s := s.withEntered x) (hp.congr rfl rfl) hn]
        exact congrArg Host.Outcome.next (mwaitIssue_withEntered x s n)

/-- MONITOR. -/
theorem execMonitor_withEntered : forgetEntered (execMonitor (s.withEntered x)) = forgetEntered (execMonitor s) := by
  by_cases hops : s.ecx = 0 ∧ s.edx = 0
  · cases hn : nextIp s.pointerBits s.ip 3 with
    | none => rw [execMonitor_doesNotFit hops hn, execMonitor_doesNotFit (s := s.withEntered x) hops hn]
    | some n =>
      rw [execMonitor_completes hops hn, execMonitor_completes (s := s.withEntered x) hops hn]
      rfl
  · rw [execMonitor_refuses hops, execMonitor_refuses (s := s.withEntered x) hops]

/-- The fetch. -/
theorem fetchExec_withEntered : forgetEntered (s.withEntered x).fetchExec = forgetEntered s.fetchExec := by
  cases hd : decode s.mode s.fetchBytes with
  | error e =>
    simp only [State.fetchExec, State.withEntered_mode, State.withEntered_fetchBytes, hd]
    cases e <;> rfl
  | ok r =>
    cases hmod : s.textModified 3 with
    | true => rw [fetchExec_modified hd hmod, fetchExec_modified (s := s.withEntered x) hd hmod]
    | false =>
      rw [fetchExec_unmodified hd hmod, fetchExec_unmodified (s := s.withEntered x) hd hmod]
      cases r.1 with
      | mwait => exact execMwait_withEntered x s
      | monitor => exact execMonitor_withEntered x s

/-- The processor's turn. -/
theorem coreTurn_withEntered : forgetEntered (s.withEntered x).coreTurn = forgetEntered s.coreTurn := by
  obtain hr | ⟨h, e, n, hr⟩ := s.run.executing_or_waiting
  · rw [coreTurn_executing hr, coreTurn_executing (s := s.withEntered x) hr, fetchExec_withEntered]
  · rw [coreTurn_waiting hr, coreTurn_waiting (s := s.withEntered x) hr, State.withEntered_duty]
    cases s.duty <;> rfl

/-- The delivery of a pending event. -/
theorem deliverTurn_withEntered (e : Event) :
    forgetEntered ((s.withEntered x).deliverTurn e) = forgetEntered (s.deliverTurn e) := by
  simp only [State.deliverTurn, State.withEntered_run, State.withEntered_pending, State.withEntered_unmasked]
  split
  · cases e <;> rfl
  · rfl

/-- Every turn. -/
theorem turn_withEntered (turn : Turn) :
    forgetEntered ((s.withEntered x).turn turn) = forgetEntered (s.turn turn) := by
  cases turn with
  | core => exact coreTurn_withEntered x s
  | arrive e => rfl
  | store agent addr data noticed =>
    by_cases hself : agent = .self → s.run = .executing
    · simp only [State.turn, storeTurn_eq hself, storeTurn_eq (s := s.withEntered x) hself]
      rfl
    · obtain ⟨rfl, hr⟩ := Classical.not_imp.mp hself
      simp only [State.turn, storeTurn_self_waiting hr, storeTurn_self_waiting (s := s.withEntered x) hr]
      rfl
  | load agent addr => rfl
  | implWake =>
    simp only [State.turn, State.implWake, State.withEntered_run]
    split <;> rfl
  | deliver e => exact deliverTurn_withEntered x s e
  | handlerReturn =>
    simp only [State.turn, State.returnTurn, State.withEntered_run, State.withEntered_frames]
    split <;> rfl
  | holdBack held =>
    simp only [State.turn, State.holdBackTurn, State.withEntered_run]
    split <;> rfl
  | writeMiscEnable enabled =>
    by_cases hzero : s.cpl = 0
    · simp only [State.turn, miscEnableTurn_levelZero hzero, miscEnableTurn_levelZero (s := s.withEntered x) hzero]
      rfl
    · simp only [State.turn, miscEnableTurn_otherLevel hzero, miscEnableTurn_otherLevel (s := s.withEntered x) hzero]
      rfl
  | enclosing g ip c =>
    simp only [State.turn, State.enclosingTurn, State.withEntered_run]
    split <;> rfl

/-- A step. -/
theorem step_withEntered : forgetEntered (step (s.withEntered x)) = forgetEntered (step s) := by
  cases hg : s.params.guest with
  | true => rw [step_guest hg, step_guest (s := s.withEntered x) hg]
  | false =>
    cases hb : s.pastBinit with
    | true => rw [step_pastBinit hg hb, step_pastBinit (s := s.withEntered x) hg hb]
    | false =>
      rw [step_eq_turn hg hb, step_eq_turn (s := s.withEntered x) hg hb]
      exact turn_withEntered x s.afterTurn s.nextTurn

end

/-- Outcomes that agree but for the record: of a next state. -/
theorem eq_next_of_forgetEntered {o : Host.Outcome State Fault Refusal} {t : State}
    (h : forgetEntered o = forgetEntered (.next t)) :
    ∃ t', o = .next t' ∧ t'.withEntered none = t.withEntered none := by
  cases o with
  | next t' => exact ⟨t', rfl, Host.Outcome.next.inj h⟩
  | fault | refused => cases h

/-- Outcomes that agree but for the record: of a fault. -/
theorem eq_fault_of_forgetEntered {o : Host.Outcome State Fault Refusal} {r : Fault}
    (h : forgetEntered o = forgetEntered (.fault r)) : o = .fault r := by
  cases o with
  | fault => exact h
  | next | refused => cases h

/-- Outcomes that agree but for the record: of a refusal. -/
theorem eq_refused_of_forgetEntered {o : Host.Outcome State Fault Refusal} {r : Refusal}
    (h : forgetEntered o = forgetEntered (.refused r)) : o = .refused r := by
  cases o with
  | refused => exact h
  | next | fault => cases h

end Sys2Proof.Machine

namespace Sys2Proof

open Machine

/-- Settles O56: the two steps agree when the record is forgotten, which is each of the three clauses. -/
theorem enteredStateIsNeverRead : Obligations.EnteredStateIsNeverRead := by
  intro s x
  have hagree := step_withEntered x s
  refine ⟨fun t h => ?_, fun r h => ?_, fun r h => ?_⟩ <;> rw [h] at hagree
  · exact eq_next_of_forgetEntered hagree
  · exact eq_fault_of_forgetEntered hagree
  · exact eq_refused_of_forgetEntered hagree

end Sys2Proof
end
